-- ==== Sys2Proof/Word.lean ====
section
/-! DEFINITION. The two word types of the core: the byte and the 16-bit word (10_state.md R16, R17; 20_memory.md R39). -/

namespace Sys2Proof

/-- An 8-bit value: a register cell, an instruction byte or a byte of the Address Space. -/
abbrev Byte := BitVec 8

/-- A 16-bit value: SP, PC, a combined view, or anything on the Register File interface. -/
abbrev Word := BitVec 16

end Sys2Proof
end

