-- ==== Sys2Proof/Config.lean ====
section
/-! DEFINITION. The parameters the core fixes (00_scope.md R7) and the defaults of those it leaves open (R8). -/

namespace Sys2Proof.Config

/-- Size of the Address Space in bytes; an address is in range iff it is below it (00_scope.md R7, 20_memory.md R40). -/
abbrev memorySize : Nat := 0x10000

/-- Clock ticks of the emulated hardware in one cycle, the unit of every cost (00_scope.md R7, 70_reset_and_hazards.md R154). -/
abbrev ticksPerCycle : Nat := 4

/-- Base address of the page the LDH loads reach (42_load_extension.md R116-R119). -/
abbrev highPage : Nat := 0xFF00

/-- Bytes of the longest instruction (30_encoding.md R62). -/
abbrev maxLength : Nat := 3

/-- The default of `LOAD_EXT` (00_scope.md R8, R13). -/
def defaultLoadExt : Bool := false

/-- The default of `END_PC` (00_scope.md R8). -/
def defaultEndPc : Option Word := none

end Sys2Proof.Config
end

