-- ==== Sys2Proof/Syntax.lean ====
section
/-! DEFINITION. The whole syntax of the machine: register ids, operands, error kinds, instruction kinds, the 85
instructions of spec/opcode_table.json, the decoded record and the decoder's tagged outcome. -/

namespace Sys2Proof

/-- The closed enumeration of the 14 register identifiers (10_state.md R15). -/
inductive RegId
  /-- an eight-bit register -/
  | a | f | b | c | d | e | h | l
  /-- a sixteen-bit standalone register -/
  | sp | pc
  /-- a sixteen-bit combined view -/
  | af | bc | de | hl
deriving DecidableEq, Repr

/-- `Reg8`: the seven registers an operand field can name (30_encoding.md R63, R71). -/
inductive Reg8
  | a | b | c | d | e | h | l
deriving DecidableEq, Repr

/-- The tagged decode of an operand field (30_encoding.md R64). -/
inductive Operand
  | register (r : Reg8)
  | memoryViaHL
deriving DecidableEq, Repr

/-- The closed enumeration of error kinds (60_exceptions.md R125). -/
inductive ErrorKind
  /-- R126: the decoder, for an empty input, byte 0x76 and every unclassified opcode byte. -/
  | invalidOpcode
  /-- R127: the decoder, given more bytes than the instruction has; the delta is negative. -/
  | wrongOpcodeSize (delta : Int)
  /-- R128: the Address Space primitives; the first failing address. -/
  | outOfBounds (address : Nat)
  /-- R129: a defect, the memory sentinel where a register was required; unreachable in a run. -/
  | unknownRegister
  /-- R130: a defect, a kind the engine has no arm for; unreachable in a run. -/
  | unknownOpcode
  /-- R131: a defect, the second decode asked for more bytes; unreachable in a run. -/
  | decoderContractViolation
deriving DecidableEq, Repr

/-- The closed set of instruction kinds with their payloads (30_encoding.md R71). -/
inductive Kind
  | loadRegisterFromRegister (dst src : Reg8)
  | loadRegisterFromMemory (dst : Reg8)
  | loadMemoryFromRegister (src : Reg8)
  | loadRegisterFromImmediate (dst : Reg8) (n : Byte)
  | loadMemoryFromImmediate (n : Byte)
  | loadAFromBC
  | loadAFromDE
  | loadBCFromA
  | loadDEFromA
  | loadAFromAbsolute (nn : Word)
  | loadAbsoluteFromA (nn : Word)
  | loadAFromHighC
  | loadHighCFromA
  | loadAFromHighImmediate (n : Byte)
  | loadHighImmediateFromA (n : Byte)
  | loadAFromHLIncrement
  | loadAFromHLDecrement
  | loadHLIncrementFromA
  | loadHLDecrementFromA
deriving DecidableEq, Repr

/-- The instructions, one constructor per row of spec/opcode_table.json, in the table's order. In a name, `At` marks
a parenthesised operand, `Imm` an 8-bit and `Abs` a 16-bit one. -/
inductive Instr
  | ldBB  -- LD B,B, 0x40, R100
  | ldBC  -- LD B,C, 0x41, R100
  | ldBD  -- LD B,D, 0x42, R100
  | ldBE  -- LD B,E, 0x43, R100
  | ldBH  -- LD B,H, 0x44, R100
  | ldBL  -- LD B,L, 0x45, R100
  | ldBAtHL  -- LD B,(HL), 0x46, R101
  | ldBA  -- LD B,A, 0x47, R100
  | ldCB  -- LD C,B, 0x48, R100
  | ldCC  -- LD C,C, 0x49, R100
  | ldCD  -- LD C,D, 0x4A, R100
  | ldCE  -- LD C,E, 0x4B, R100
  | ldCH  -- LD C,H, 0x4C, R100
  | ldCL  -- LD C,L, 0x4D, R100
  | ldCAtHL  -- LD C,(HL), 0x4E, R101
  | ldCA  -- LD C,A, 0x4F, R100
  | ldDB  -- LD D,B, 0x50, R100
  | ldDC  -- LD D,C, 0x51, R100
  | ldDD  -- LD D,D, 0x52, R100
  | ldDE  -- LD D,E, 0x53, R100
  | ldDH  -- LD D,H, 0x54, R100
  | ldDL  -- LD D,L, 0x55, R100
  | ldDAtHL  -- LD D,(HL), 0x56, R101
  | ldDA  -- LD D,A, 0x57, R100
  | ldEB  -- LD E,B, 0x58, R100
  | ldEC  -- LD E,C, 0x59, R100
  | ldED  -- LD E,D, 0x5A, R100
  | ldEE  -- LD E,E, 0x5B, R100
  | ldEH  -- LD E,H, 0x5C, R100
  | ldEL  -- LD E,L, 0x5D, R100
  | ldEAtHL  -- LD E,(HL), 0x5E, R101
  | ldEA  -- LD E,A, 0x5F, R100
  | ldHB  -- LD H,B, 0x60, R100
  | ldHC  -- LD H,C, 0x61, R100
  | ldHD  -- LD H,D, 0x62, R100
  | ldHE  -- LD H,E, 0x63, R100
  | ldHH  -- LD H,H, 0x64, R100
  | ldHL  -- LD H,L, 0x65, R100
  | ldHAtHL  -- LD H,(HL), 0x66, R101
  | ldHA  -- LD H,A, 0x67, R100
  | ldLB  -- LD L,B, 0x68, R100
  | ldLC  -- LD L,C, 0x69, R100
  | ldLD  -- LD L,D, 0x6A, R100
  | ldLE  -- LD L,E, 0x6B, R100
  | ldLH  -- LD L,H, 0x6C, R100
  | ldLL  -- LD L,L, 0x6D, R100
  | ldLAtHL  -- LD L,(HL), 0x6E, R101
  | ldLA  -- LD L,A, 0x6F, R100
  | ldAtHLB  -- LD (HL),B, 0x70, R102
  | ldAtHLC  -- LD (HL),C, 0x71, R102
  | ldAtHLD  -- LD (HL),D, 0x72, R102
  | ldAtHLE  -- LD (HL),E, 0x73, R102
  | ldAtHLH  -- LD (HL),H, 0x74, R102
  | ldAtHLL  -- LD (HL),L, 0x75, R102
  | ldAtHLA  -- LD (HL),A, 0x77, R102
  | ldAB  -- LD A,B, 0x78, R100
  | ldAC  -- LD A,C, 0x79, R100
  | ldAD  -- LD A,D, 0x7A, R100
  | ldAE  -- LD A,E, 0x7B, R100
  | ldAH  -- LD A,H, 0x7C, R100
  | ldAL  -- LD A,L, 0x7D, R100
  | ldAAtHL  -- LD A,(HL), 0x7E, R101
  | ldAA  -- LD A,A, 0x7F, R100
  | ldBImm (n : Byte)  -- LD B,n8, 0x06, R108
  | ldCImm (n : Byte)  -- LD C,n8, 0x0E, R108
  | ldDImm (n : Byte)  -- LD D,n8, 0x16, R108
  | ldEImm (n : Byte)  -- LD E,n8, 0x1E, R108
  | ldHImm (n : Byte)  -- LD H,n8, 0x26, R108
  | ldLImm (n : Byte)  -- LD L,n8, 0x2E, R108
  | ldAImm (n : Byte)  -- LD A,n8, 0x3E, R108
  | ldAtHLImm (n : Byte)  -- LD (HL),n8, 0x36, R109
  | ldAAtBC  -- LD A,(BC), 0x0A, R110
  | ldAAtDE  -- LD A,(DE), 0x1A, R111
  | ldAtBCA  -- LD (BC),A, 0x02, R112
  | ldAtDEA  -- LD (DE),A, 0x12, R113
  | ldAAtAbs (nn : Word)  -- LD A,(n16), 0xFA, R114
  | ldAtAbsA (nn : Word)  -- LD (n16),A, 0xEA, R115
  | ldhAAtC  -- LDH A,(C), 0xF2, R116
  | ldhAtCA  -- LDH (C),A, 0xE2, R117
  | ldhAAtImm (n : Byte)  -- LDH A,(n8), 0xF0, R118
  | ldhAtImmA (n : Byte)  -- LDH (n8),A, 0xE0, R119
  | ldAAtHLInc  -- LD A,(HL+), 0x2A, R120
  | ldAAtHLDec  -- LD A,(HL-), 0x3A, R121
  | ldAtHLIncA  -- LD (HL+),A, 0x22, R122
  | ldAtHLDecA  -- LD (HL-),A, 0x32, R123
deriving DecidableEq, Repr

/-- The immutable record of one decoded opcode (30_encoding.md R70). `instr` is the resolved instruction, a row of
the opcode table with its operands; its kind is `instr.kind`. -/
structure Decoded where
  opcode   : Byte
  header   : BitVec 2
  first    : BitVec 3
  second   : BitVec 3
  trailing : List Byte
  instr    : Instr
  cycles   : Nat
  length   : Nat
deriving DecidableEq, Repr

/-- The decoder's tagged outcome (00_scope.md R11, 30_encoding.md R72). -/
inductive DecodeOutcome
  | complete (d : Decoded)
  | needMoreBytes (count : Nat)
  | error (k : ErrorKind)
deriving DecidableEq, Repr

end Sys2Proof
end

