-- ==== Sys2Proof/WellFormed.lean ====
section
/-! DEFINITION. Well-formedness of an instruction: it exists in the configuration (30_encoding.md R71, 00_scope.md R13).
Every other condition on an instruction is carried by its type (an operand register is a `Reg8`, an immediate a `Byte`). -/

namespace Sys2Proof

/-- The instruction belongs to the base configuration: one of the 63 header-`01` loads (30_encoding.md R66, R71). -/
def Instr.isBase : Instr → Bool
  | .ldBB | .ldBC | .ldBD | .ldBE | .ldBH | .ldBL | .ldBAtHL => true
  | .ldBA | .ldCB | .ldCC | .ldCD | .ldCE | .ldCH | .ldCL => true
  | .ldCAtHL | .ldCA | .ldDB | .ldDC | .ldDD | .ldDE | .ldDH => true
  | .ldDL | .ldDAtHL | .ldDA | .ldEB | .ldEC | .ldED | .ldEE => true
  | .ldEH | .ldEL | .ldEAtHL | .ldEA | .ldHB | .ldHC | .ldHD => true
  | .ldHE | .ldHH | .ldHL | .ldHAtHL | .ldHA | .ldLB | .ldLC => true
  | .ldLD | .ldLE | .ldLH | .ldLL | .ldLAtHL | .ldLA | .ldAtHLB => true
  | .ldAtHLC | .ldAtHLD | .ldAtHLE | .ldAtHLH | .ldAtHLL | .ldAtHLA | .ldAB => true
  | .ldAC | .ldAD | .ldAE | .ldAH | .ldAL | .ldAAtHL | .ldAA => true
  | .ldBImm _ => false
  | .ldCImm _ => false
  | .ldDImm _ => false
  | .ldEImm _ => false
  | .ldHImm _ => false
  | .ldLImm _ => false
  | .ldAImm _ => false
  | .ldAtHLImm _ => false
  | .ldAAtBC => false
  | .ldAAtDE => false
  | .ldAtBCA => false
  | .ldAtDEA => false
  | .ldAAtAbs _ => false
  | .ldAtAbsA _ => false
  | .ldhAAtC => false
  | .ldhAtCA => false
  | .ldhAAtImm _ => false
  | .ldhAtImmA _ => false
  | .ldAAtHLInc => false
  | .ldAAtHLDec => false
  | .ldAtHLIncA => false
  | .ldAtHLDecA => false

/-- The instruction exists when `LOAD_EXT` is `loadExt` (30_encoding.md R71, the configuration column). -/
def Instr.wellFormed (loadExt : Bool) (i : Instr) : Bool := loadExt || i.isBase

end Sys2Proof
end

