-- ==== Sys2Proof/Decode.lean ====
section
/-! DEFINITION. The Opcode Decoder (30_encoding.md) and, after it, the encoder: field split, operand map,
classification, `EXT_TABLE`, the total decoder of R72, the encoder of R77 and 42_load_extension.md R107. -/

namespace Sys2Proof

/-- The outcome is a whole instruction (30_encoding.md R72). -/
def DecodeOutcome.isComplete : DecodeOutcome → Bool
  | .complete _ => true
  | .needMoreBytes _ => false
  | .error _ => false

/-- The outcome asks for more bytes (30_encoding.md R72). -/
def DecodeOutcome.isNeedMoreBytes : DecodeOutcome → Bool
  | .complete _ => false
  | .needMoreBytes _ => true
  | .error _ => false

/-- The outcome is the error InvalidOpcode (30_encoding.md R72). -/
def DecodeOutcome.isInvalidOpcode (outcome : DecodeOutcome) : Bool := outcome == .error .invalidOpcode

/-- Header, bits 7-6 of the opcode byte (30_encoding.md R61). -/
def opHeader (op : Byte) : BitVec 2 := op.extractLsb' 6 2

/-- First field, bits 5-3, the destination in the load family (30_encoding.md R61). -/
def opFirst (op : Byte) : BitVec 3 := op.extractLsb' 3 3

/-- Second field, bits 2-0, the source in the load family (30_encoding.md R61). -/
def opSecond (op : Byte) : BitVec 3 := op.extractLsb' 0 3

/-- Operand-field map, used for both fields; the sentinel `110` is tested first (30_encoding.md R63, R64). -/
def operandOf (code : BitVec 3) : Operand :=
  if code = 0b110#3 then .memoryViaHL
  else if code = 0b000#3 then .register .b
  else if code = 0b001#3 then .register .c
  else if code = 0b010#3 then .register .d
  else if code = 0b011#3 then .register .e
  else if code = 0b100#3 then .register .h
  else if code = 0b101#3 then .register .l
  else .register .a

/-- `code(r)`, the operand code of a register (30_encoding.md R63). -/
def Reg8.code : Reg8 → BitVec 3
  | .b => 0b000#3
  | .c => 0b001#3
  | .d => 0b010#3
  | .e => 0b011#3
  | .h => 0b100#3
  | .l => 0b101#3
  | .a => 0b111#3

/-- The operand code of an operand; the memory sentinel is `110` (30_encoding.md R63). -/
def Operand.code : Operand → BitVec 3
  | .register r => r.code
  | .memoryViaHL => 0b110#3

/-- The Register File identifier of an operand register (10_state.md R15). -/
def Reg8.id : Reg8 → RegId
  | .a => .a
  | .b => .b
  | .c => .c
  | .d => .d
  | .e => .e
  | .h => .h
  | .l => .l

/-- The kind and payload of an instruction (30_encoding.md R71, R78; 42_load_extension.md R107). -/
def Instr.kind : Instr → Kind
  | .ldBB => .loadRegisterFromRegister .b .b
  | .ldBC => .loadRegisterFromRegister .b .c
  | .ldBD => .loadRegisterFromRegister .b .d
  | .ldBE => .loadRegisterFromRegister .b .e
  | .ldBH => .loadRegisterFromRegister .b .h
  | .ldBL => .loadRegisterFromRegister .b .l
  | .ldBAtHL => .loadRegisterFromMemory .b
  | .ldBA => .loadRegisterFromRegister .b .a
  | .ldCB => .loadRegisterFromRegister .c .b
  | .ldCC => .loadRegisterFromRegister .c .c
  | .ldCD => .loadRegisterFromRegister .c .d
  | .ldCE => .loadRegisterFromRegister .c .e
  | .ldCH => .loadRegisterFromRegister .c .h
  | .ldCL => .loadRegisterFromRegister .c .l
  | .ldCAtHL => .loadRegisterFromMemory .c
  | .ldCA => .loadRegisterFromRegister .c .a
  | .ldDB => .loadRegisterFromRegister .d .b
  | .ldDC => .loadRegisterFromRegister .d .c
  | .ldDD => .loadRegisterFromRegister .d .d
  | .ldDE => .loadRegisterFromRegister .d .e
  | .ldDH => .loadRegisterFromRegister .d .h
  | .ldDL => .loadRegisterFromRegister .d .l
  | .ldDAtHL => .loadRegisterFromMemory .d
  | .ldDA => .loadRegisterFromRegister .d .a
  | .ldEB => .loadRegisterFromRegister .e .b
  | .ldEC => .loadRegisterFromRegister .e .c
  | .ldED => .loadRegisterFromRegister .e .d
  | .ldEE => .loadRegisterFromRegister .e .e
  | .ldEH => .loadRegisterFromRegister .e .h
  | .ldEL => .loadRegisterFromRegister .e .l
  | .ldEAtHL => .loadRegisterFromMemory .e
  | .ldEA => .loadRegisterFromRegister .e .a
  | .ldHB => .loadRegisterFromRegister .h .b
  | .ldHC => .loadRegisterFromRegister .h .c
  | .ldHD => .loadRegisterFromRegister .h .d
  | .ldHE => .loadRegisterFromRegister .h .e
  | .ldHH => .loadRegisterFromRegister .h .h
  | .ldHL => .loadRegisterFromRegister .h .l
  | .ldHAtHL => .loadRegisterFromMemory .h
  | .ldHA => .loadRegisterFromRegister .h .a
  | .ldLB => .loadRegisterFromRegister .l .b
  | .ldLC => .loadRegisterFromRegister .l .c
  | .ldLD => .loadRegisterFromRegister .l .d
  | .ldLE => .loadRegisterFromRegister .l .e
  | .ldLH => .loadRegisterFromRegister .l .h
  | .ldLL => .loadRegisterFromRegister .l .l
  | .ldLAtHL => .loadRegisterFromMemory .l
  | .ldLA => .loadRegisterFromRegister .l .a
  | .ldAtHLB => .loadMemoryFromRegister .b
  | .ldAtHLC => .loadMemoryFromRegister .c
  | .ldAtHLD => .loadMemoryFromRegister .d
  | .ldAtHLE => .loadMemoryFromRegister .e
  | .ldAtHLH => .loadMemoryFromRegister .h
  | .ldAtHLL => .loadMemoryFromRegister .l
  | .ldAtHLA => .loadMemoryFromRegister .a
  | .ldAB => .loadRegisterFromRegister .a .b
  | .ldAC => .loadRegisterFromRegister .a .c
  | .ldAD => .loadRegisterFromRegister .a .d
  | .ldAE => .loadRegisterFromRegister .a .e
  | .ldAH => .loadRegisterFromRegister .a .h
  | .ldAL => .loadRegisterFromRegister .a .l
  | .ldAAtHL => .loadRegisterFromMemory .a
  | .ldAA => .loadRegisterFromRegister .a .a
  | .ldBImm n => .loadRegisterFromImmediate .b n
  | .ldCImm n => .loadRegisterFromImmediate .c n
  | .ldDImm n => .loadRegisterFromImmediate .d n
  | .ldEImm n => .loadRegisterFromImmediate .e n
  | .ldHImm n => .loadRegisterFromImmediate .h n
  | .ldLImm n => .loadRegisterFromImmediate .l n
  | .ldAImm n => .loadRegisterFromImmediate .a n
  | .ldAtHLImm n => .loadMemoryFromImmediate n
  | .ldAAtBC => .loadAFromBC
  | .ldAAtDE => .loadAFromDE
  | .ldAtBCA => .loadBCFromA
  | .ldAtDEA => .loadDEFromA
  | .ldAAtAbs nn => .loadAFromAbsolute nn
  | .ldAtAbsA nn => .loadAbsoluteFromA nn
  | .ldhAAtC => .loadAFromHighC
  | .ldhAtCA => .loadHighCFromA
  | .ldhAAtImm n => .loadAFromHighImmediate n
  | .ldhAtImmA n => .loadHighImmediateFromA n
  | .ldAAtHLInc => .loadAFromHLIncrement
  | .ldAAtHLDec => .loadAFromHLDecrement
  | .ldAtHLIncA => .loadHLIncrementFromA
  | .ldAtHLDecA => .loadHLDecrementFromA

/-- `LD d, s` as a row of the opcode table (30_encoding.md R78). -/
def Instr.ofRegisterRegister : Reg8 → Reg8 → Instr
  | .b, .b => .ldBB
  | .b, .c => .ldBC
  | .b, .d => .ldBD
  | .b, .e => .ldBE
  | .b, .h => .ldBH
  | .b, .l => .ldBL
  | .b, .a => .ldBA
  | .c, .b => .ldCB
  | .c, .c => .ldCC
  | .c, .d => .ldCD
  | .c, .e => .ldCE
  | .c, .h => .ldCH
  | .c, .l => .ldCL
  | .c, .a => .ldCA
  | .d, .b => .ldDB
  | .d, .c => .ldDC
  | .d, .d => .ldDD
  | .d, .e => .ldDE
  | .d, .h => .ldDH
  | .d, .l => .ldDL
  | .d, .a => .ldDA
  | .e, .b => .ldEB
  | .e, .c => .ldEC
  | .e, .d => .ldED
  | .e, .e => .ldEE
  | .e, .h => .ldEH
  | .e, .l => .ldEL
  | .e, .a => .ldEA
  | .h, .b => .ldHB
  | .h, .c => .ldHC
  | .h, .d => .ldHD
  | .h, .e => .ldHE
  | .h, .h => .ldHH
  | .h, .l => .ldHL
  | .h, .a => .ldHA
  | .l, .b => .ldLB
  | .l, .c => .ldLC
  | .l, .d => .ldLD
  | .l, .e => .ldLE
  | .l, .h => .ldLH
  | .l, .l => .ldLL
  | .l, .a => .ldLA
  | .a, .b => .ldAB
  | .a, .c => .ldAC
  | .a, .d => .ldAD
  | .a, .e => .ldAE
  | .a, .h => .ldAH
  | .a, .l => .ldAL
  | .a, .a => .ldAA

/-- `LD d, (HL)` as a row of the opcode table (30_encoding.md R78). -/
def Instr.ofRegisterMemory : Reg8 → Instr
  | .b => .ldBAtHL
  | .c => .ldCAtHL
  | .d => .ldDAtHL
  | .e => .ldEAtHL
  | .h => .ldHAtHL
  | .l => .ldLAtHL
  | .a => .ldAAtHL

/-- `LD (HL), s` as a row of the opcode table (30_encoding.md R78). -/
def Instr.ofMemoryRegister : Reg8 → Instr
  | .b => .ldAtHLB
  | .c => .ldAtHLC
  | .d => .ldAtHLD
  | .e => .ldAtHLE
  | .h => .ldAtHLH
  | .l => .ldAtHLL
  | .a => .ldAtHLA

/-- `LD d, n8` as a row of the opcode table (42_load_extension.md R107). -/
def Instr.ofRegisterImmediate : Reg8 → Byte → Instr
  | .b, n => .ldBImm n
  | .c, n => .ldCImm n
  | .d, n => .ldDImm n
  | .e, n => .ldEImm n
  | .h, n => .ldHImm n
  | .l, n => .ldLImm n
  | .a, n => .ldAImm n

/-- The instruction of a kind: the inverse of `Instr.kind`. -/
def Kind.instr : Kind → Instr
  | .loadRegisterFromRegister dst src => .ofRegisterRegister dst src
  | .loadRegisterFromMemory dst => .ofRegisterMemory dst
  | .loadMemoryFromRegister src => .ofMemoryRegister src
  | .loadRegisterFromImmediate dst n => .ofRegisterImmediate dst n
  | .loadMemoryFromImmediate n => .ldAtHLImm n
  | .loadAFromBC => .ldAAtBC
  | .loadAFromDE => .ldAAtDE
  | .loadBCFromA => .ldAtBCA
  | .loadDEFromA => .ldAtDEA
  | .loadAFromAbsolute nn => .ldAAtAbs nn
  | .loadAbsoluteFromA nn => .ldAtAbsA nn
  | .loadAFromHighC => .ldhAAtC
  | .loadHighCFromA => .ldhAtCA
  | .loadAFromHighImmediate n => .ldhAAtImm n
  | .loadHighImmediateFromA n => .ldhAtImmA n
  | .loadAFromHLIncrement => .ldAAtHLInc
  | .loadAFromHLDecrement => .ldAAtHLDec
  | .loadHLIncrementFromA => .ldAtHLIncA
  | .loadHLDecrementFromA => .ldAtHLDecA

/-- What classification yields: the length, the cost in cycles, and the kind made from the trailing bytes
(30_encoding.md R72: `(L, cyc, make)`). -/
structure OpClass where
  length : Nat
  cycles : Nat
  make   : List Byte → Kind

/-- Header `01`: the 8-bit load family, by its two operands (30_encoding.md R66). -/
def classifyLoad : Operand → Operand → Option OpClass
  | .memoryViaHL, .memoryViaHL => none
  | .memoryViaHL, .register src => some ⟨1, 2, fun _ => .loadMemoryFromRegister src⟩
  | .register dst, .memoryViaHL => some ⟨1, 2, fun _ => .loadRegisterFromMemory dst⟩
  | .register dst, .register src => some ⟨1, 1, fun _ => .loadRegisterFromRegister dst src⟩

/-- `t[i]`, a trailing byte (42_load_extension.md). -/
def trailingByte (t : List Byte) (i : Nat) : Byte := t.getD i 0

/-- `(h << 8) | l`, the word with these two bytes (00_scope.md R9, 10_state.md R23). -/
def joinBytes (h l : Byte) : Word := (h.setWidth 16 <<< 8) ||| l.setWidth 16

/-- The 16-bit operand `nn = (t[1] << 8) | t[0]`, low byte at the lower address (20_memory.md R48). -/
def trailingWord (t : List Byte) : Word := joinBytes (trailingByte t 1) (trailingByte t 0)

/-- One row of `EXT_TABLE`: its opcode byte and its class. -/
structure ExtRow where
  opcode : Byte
  cls    : OpClass

/-- `EXT_TABLE`, the bytes `LOAD_EXT` classifies (42_load_extension.md R107). -/
def extTable : List ExtRow :=
  extTableLow ++ extTableMid ++ extTableHigh
where
  /-- 0x02 to 0x1E. -/
  extTableLow : List ExtRow := [
    ⟨0x02#8, 1, 2, fun _ => .loadBCFromA⟩,
    ⟨0x06#8, 2, 2, fun t => .loadRegisterFromImmediate .b (trailingByte t 0)⟩,
    ⟨0x0A#8, 1, 2, fun _ => .loadAFromBC⟩,
    ⟨0x0E#8, 2, 2, fun t => .loadRegisterFromImmediate .c (trailingByte t 0)⟩,
    ⟨0x12#8, 1, 2, fun _ => .loadDEFromA⟩,
    ⟨0x16#8, 2, 2, fun t => .loadRegisterFromImmediate .d (trailingByte t 0)⟩,
    ⟨0x1A#8, 1, 2, fun _ => .loadAFromDE⟩,
    ⟨0x1E#8, 2, 2, fun t => .loadRegisterFromImmediate .e (trailingByte t 0)⟩]
  /-- 0x22 to 0x3E. -/
  extTableMid : List ExtRow := [
    ⟨0x22#8, 1, 2, fun _ => .loadHLIncrementFromA⟩,
    ⟨0x26#8, 2, 2, fun t => .loadRegisterFromImmediate .h (trailingByte t 0)⟩,
    ⟨0x2A#8, 1, 2, fun _ => .loadAFromHLIncrement⟩,
    ⟨0x2E#8, 2, 2, fun t => .loadRegisterFromImmediate .l (trailingByte t 0)⟩,
    ⟨0x32#8, 1, 2, fun _ => .loadHLDecrementFromA⟩,
    ⟨0x36#8, 2, 3, fun t => .loadMemoryFromImmediate (trailingByte t 0)⟩,
    ⟨0x3A#8, 1, 2, fun _ => .loadAFromHLDecrement⟩,
    ⟨0x3E#8, 2, 2, fun t => .loadRegisterFromImmediate .a (trailingByte t 0)⟩]
  /-- 0xE0 to 0xFA. -/
  extTableHigh : List ExtRow := [
    ⟨0xE0#8, 2, 3, fun t => .loadHighImmediateFromA (trailingByte t 0)⟩,
    ⟨0xE2#8, 1, 2, fun _ => .loadHighCFromA⟩,
    ⟨0xEA#8, 3, 4, fun t => .loadAbsoluteFromA (trailingWord t)⟩,
    ⟨0xF0#8, 2, 3, fun t => .loadAFromHighImmediate (trailingByte t 0)⟩,
    ⟨0xF2#8, 1, 2, fun _ => .loadAFromHighC⟩,
    ⟨0xFA#8, 3, 4, fun t => .loadAFromAbsolute (trailingWord t)⟩]

/-- Classification of an opcode byte, a function of that byte and `LOAD_EXT` alone (30_encoding.md R65, R68, R72). -/
def classify (loadExt : Bool) (op : Byte) : Option OpClass :=
  if opHeader op = 0b01#2 then classifyLoad (operandOf (opFirst op)) (operandOf (opSecond op))
  else if loadExt then (extTable.find? (fun row => row.opcode == op)).map ExtRow.cls
  else none

/-- The Instruction record of a classified opcode byte and its trailing bytes (30_encoding.md R70, R72). -/
def decodedRecord (op : Byte) (trailing : List Byte) (cls : OpClass) : Decoded :=
  { opcode := op, header := opHeader op, first := opFirst op, second := opSecond op
    trailing := trailing, instr := (cls.make trailing).instr, cycles := cls.cycles, length := cls.length }

/-- The decoder, total on every byte list: empty, then classification, then size (30_encoding.md R69, R72, R74). -/
def decode (loadExt : Bool) : List Byte → DecodeOutcome
  | [] => .error .invalidOpcode
  | op :: trailing =>
    match classify loadExt op with
    | none => .error .invalidOpcode
    | some cls =>
      if 1 + trailing.length < cls.length then .needMoreBytes (cls.length - (1 + trailing.length))
      else if cls.length < 1 + trailing.length then
        .error (.wrongOpcodeSize ((cls.length : Int) - ((1 + trailing.length : Nat) : Int)))
      else .complete (decodedRecord op trailing cls)

/-- The opcode byte with the given fields: `(header << 6) | (first << 3) | second` (30_encoding.md R77). -/
def opByte (header : BitVec 2) (first second : BitVec 3) : Byte :=
  (header.setWidth 8 <<< 6) ||| (first.setWidth 8 <<< 3) ||| second.setWidth 8

/-- The bytes of nn in memory order, low byte first (20_memory.md R48, 30_encoding.md R62 format F3). -/
def wordBytes (nn : Word) : List Byte := [nn.extractLsb' 0 8, nn.extractLsb' 8 8]

/-- The bytes of a kind in memory order (30_encoding.md R77; 42_load_extension.md R107). -/
def Kind.encode : Kind → List Byte
  | .loadRegisterFromRegister dst src => [opByte 0b01#2 dst.code src.code]
  | .loadRegisterFromMemory dst => [opByte 0b01#2 dst.code 0b110#3]
  | .loadMemoryFromRegister src => [opByte 0b01#2 0b110#3 src.code]
  | .loadRegisterFromImmediate dst n => [opByte 0b00#2 dst.code 0b110#3, n]
  | .loadMemoryFromImmediate n => [opByte 0b00#2 0b110#3 0b110#3, n]
  | .loadAFromBC => [opByte 0b00#2 0b001#3 0b010#3]
  | .loadAFromDE => [opByte 0b00#2 0b011#3 0b010#3]
  | .loadBCFromA => [opByte 0b00#2 0b000#3 0b010#3]
  | .loadDEFromA => [opByte 0b00#2 0b010#3 0b010#3]
  | .loadAFromAbsolute nn => opByte 0b11#2 0b111#3 0b010#3 :: wordBytes nn
  | .loadAbsoluteFromA nn => opByte 0b11#2 0b101#3 0b010#3 :: wordBytes nn
  | .loadAFromHighC => [opByte 0b11#2 0b110#3 0b010#3]
  | .loadHighCFromA => [opByte 0b11#2 0b100#3 0b010#3]
  | .loadAFromHighImmediate n => [opByte 0b11#2 0b110#3 0b000#3, n]
  | .loadHighImmediateFromA n => [opByte 0b11#2 0b100#3 0b000#3, n]
  | .loadAFromHLIncrement => [opByte 0b00#2 0b101#3 0b010#3]
  | .loadAFromHLDecrement => [opByte 0b00#2 0b111#3 0b010#3]
  | .loadHLIncrementFromA => [opByte 0b00#2 0b100#3 0b010#3]
  | .loadHLDecrementFromA => [opByte 0b00#2 0b110#3 0b010#3]

/-- The bytes of an instruction in memory order: the encoder. -/
def encode (i : Instr) : List Byte := i.kind.encode

/-- The decode of an instruction whose first byte is `b0` and whose later bytes stand at the head of `rest`, by the
two phases of the Fetch-Execute Cycle: one byte, then exactly the missing ones (30_encoding.md R65, R75). -/
def decodeTwoPhase (loadExt : Bool) (b0 : Byte) (rest : List Byte) : DecodeOutcome :=
  match decode loadExt [b0] with
  | .needMoreBytes n => decode loadExt (b0 :: rest.take n)
  | outcome => outcome

/-- Byte `k` of a word numbered as spec/opcode_table.json numbers it: bits `8k+7 .. 8k` of the low `nbits` bits. -/
def tableByte (nbits w k : Nat) : Byte := BitVec.ofNat 8 ((w % 2 ^ nbits) >>> (8 * k))

/-- The instruction the decoder reads from the instruction whose bits are `w`, in the configuration in which every row
of the table exists (`LOAD_EXT` true: assumption log 1). -/
def decodeTableWord (nbits w : Nat) : Option Instr :=
  match decodeTwoPhase true (tableByte nbits w 0) [tableByte nbits w 1, tableByte nbits w 2] with
  | .complete d => some d.instr
  | .needMoreBytes _ => none
  | .error _ => none

end Sys2Proof
end

