-- ==== Sys2Proof/Machine/State.lean ====
section
/-! DEFINITION. The state of the composed machine as plain data, the reasons a step stops, and the state after reset
(10_state.md; 40_fetch_execute.md R85, R94; 70_reset_and_hazards.md). -/

namespace Sys2Proof.Machine

/-- The Register File: eight 8-bit cells and two 16-bit ones, 80 bits in all (10_state.md R16, R17). The combined views
have no storage (R18). `f` keeps bits 3-0 zero: an invariant of the machine, `RegFile.flagsWf`. -/
structure RegFile where
  a  : Byte
  f  : Byte
  b  : Byte
  c  : Byte
  d  : Byte
  e  : Byte
  h  : Byte
  l  : Byte
  sp : Word
  pc : Word
deriving DecidableEq, Repr

/-- The Address Space (20_memory.md R39) as a list of (address, byte) in the canonical form `Memory.wf`: addresses
strictly rising and in range, no entry equal to what an unlisted address reads as. -/
abbrev Memory := List Host.Cell

/-- The two states of the Fetch-Execute Cycle (40_fetch_execute.md R85). -/
inductive FetchPhase
  | ready
  | needMoreBytes
deriving DecidableEq, Repr

/-- What one call of `run_one` gives back to its caller (00_scope.md R11, 40_fetch_execute.md R84). -/
inductive CallResult
  | ok (cycles length : Nat)
  | error (k : ErrorKind)
deriving DecidableEq, Repr

/-- The composed machine: the core's state (10_state.md), the model-only fault of R37, the parameters `LOAD_EXT` and
`END_PC` (00_scope.md R8), and the output of the last call. -/
structure State where
  /-- The Register File (10_state.md). -/
  regs    : RegFile
  /-- The Address Space (20_memory.md). -/
  mem     : Memory
  /-- The fetch state machine; not `ready` only while a call is in progress (10_state.md R36). -/
  phase   : FetchPhase
  /-- The first error of a call; never cleared (10_state.md R37). -/
  fault   : Option ErrorKind
  /-- What the last call returned. DESIGN CHOICE (assumption log 5): the step's output stands in the state. -/
  result  : Option CallResult
  /-- The parameter `LOAD_EXT`. DESIGN CHOICE (assumption log 1): carried here, never written by a step. -/
  loadExt : Bool
  /-- The parameter `END_PC`. DESIGN CHOICE (assumption log 1): carried here, never written by a step. -/
  endPc   : Option Word
deriving DecidableEq, Repr

/-- Why a step stops with a fault. -/
inductive Fault
  /-- Raised by a meaning whose Address Space access fails (20_memory.md R41, R42). Safe: `runOne` turns it into the
  error the call returns, and no data address of an instruction is out of range (R45), so no state reaches it. -/
  | raised (k : ErrorKind)
  /-- Raised by `step` in a machine whose `fault` is set: it has no further step (40_fetch_execute.md R99). Safe. -/
  | stuck (k : ErrorKind)
deriving DecidableEq, Repr

/-- Why a step is refused. -/
inductive Refusal
  /-- Raised by an arm of `exec` without a meaning. Safe. No arm answers it: every instruction has its meaning. -/
  | notModelled (mnemonic : String)
  /-- Raised by `step` when the run has ended normally at `END_PC` (40_fetch_execute.md R94, R96). Safe. -/
  | runEnded
  /-- Raised by `runOne` while a call is in progress (60_exceptions.md R141: one call at a time). Safe: every state
  between calls is `ready`. -/
  | callInProgress
  /-- Raised by `State.launch` for `INIT_REGS` with F[3:0] not zero (70_reset_and_hazards.md R145). Safe. -/
  | launchFlagsNotZero
  /-- Raised by `State.launch` for an `INIT_MEM` that is not in the canonical form. Safe: every content of the
  Address Space has one canonical form. -/
  | launchMemoryNotCanonical
deriving DecidableEq, Repr

/-- The outcome of a meaning or a step. -/
abbrev StepOutcome := Host.Outcome State Fault Refusal

/-- The Register File of `State.reset`. DESIGN CHOICE (assumption logs 2 and 3): the spec leaves `INIT_REGS` and
`RESET_PC` open (70_reset_and_hazards.md R144, R148); only F[3:0] = 0 is the spec's (R145). -/
def RegFile.reset : RegFile :=
  { a := 0, f := 0, b := 0, c := 0, d := 0, e := 0, h := 0, l := 0, sp := 0, pc := 0 }

/-- The machine at creation, the only reset (70_reset_and_hazards.md R143): *ready*, no fault (R149), the spec's
default parameters, nothing written to memory; registers as `RegFile.reset` names them. -/
def State.reset : State :=
  { regs := RegFile.reset, mem := [], phase := .ready, fault := none, result := none,
    loadExt := Config.defaultLoadExt, endPc := Config.defaultEndPc }

end Sys2Proof.Machine
end

