-- ==== Sys2Proof/Machine/Ops.lean ====
section
/-! DEFINITION. The named operations: Register File access (10_state.md R21-R26), Address Space access (20_memory.md
R41-R44), the record of an error (40_fetch_execute.md R94), and the loads and stores every meaning is made of. -/

namespace Sys2Proof.Machine

/-! ### Register File -/

/-- Low byte of a 16-bit value, `v & 0xFF` (10_state.md R24). -/
def lowByte (v : Word) : Byte := v.extractLsb' 0 8

/-- High byte of a 16-bit value, `v >> 8` (10_state.md R26). -/
def highByte (v : Word) : Byte := v.extractLsb' 8 8

/-- `zext_16`: an 8-bit value widened with zero bits (00_scope.md R9). -/
def zext16 (v : Byte) : Word := v.setWidth 16

/-- What F stores of a byte: its low nibble is reserved and reads as zero (10_state.md R20, R24; C3 of 90_conflicts.md). -/
def maskFlags (v : Byte) : Byte := v &&& 0xF0#8

/-- The low nibble of F is zero (10_state.md R20). -/
def RegFile.flagsWf (rf : RegFile) : Bool := rf.f &&& 0x0F#8 == 0#8

/-- `Reg[id]`: 16 bits; 8-bit registers zero-extended, views high byte first (10_state.md R21, R22, R23). -/
def RegFile.read (rf : RegFile) : RegId → Word
  | .a => zext16 rf.a
  | .f => zext16 rf.f
  | .b => zext16 rf.b
  | .c => zext16 rf.c
  | .d => zext16 rf.d
  | .e => zext16 rf.e
  | .h => zext16 rf.h
  | .l => zext16 rf.l
  | .sp => rf.sp
  | .pc => rf.pc
  | .af => joinBytes rf.a rf.f
  | .bc => joinBytes rf.b rf.c
  | .de => joinBytes rf.d rf.e
  | .hl => joinBytes rf.h rf.l

/-- `Reg[id] <- v`: 8-bit registers keep the low byte, F masks its low nibble, a view writes its two bytes
(10_state.md R24, R25, R26). -/
def RegFile.write (rf : RegFile) (id : RegId) (v : Word) : RegFile :=
  match id with
  | .a => { rf with a := lowByte v }
  | .f => { rf with f := maskFlags (lowByte v) }
  | .b => { rf with b := lowByte v }
  | .c => { rf with c := lowByte v }
  | .d => { rf with d := lowByte v }
  | .e => { rf with e := lowByte v }
  | .h => { rf with h := lowByte v }
  | .l => { rf with l := lowByte v }
  | .sp => { rf with sp := v }
  | .pc => { rf with pc := v }
  | .af => { rf with a := highByte v, f := maskFlags (lowByte v) }
  | .bc => { rf with b := highByte v, c := lowByte v }
  | .de => { rf with d := highByte v, e := lowByte v }
  | .hl => { rf with h := highByte v, l := lowByte v }

/-- A register with storage of its own: every id but the four views (10_state.md R18). -/
def isCell : RegId → Bool
  | .a | .f | .b | .c | .d | .e | .h | .l | .sp | .pc => true
  | .af | .bc | .de | .hl => false

/-- The cells an id names: itself, or the two bytes of a view (10_state.md R18). -/
def cellsOf : RegId → List RegId
  | .af => [.a, .f]
  | .bc => [.b, .c]
  | .de => [.d, .e]
  | .hl => [.h, .l]
  | .a => [.a]
  | .f => [.f]
  | .b => [.b]
  | .c => [.c]
  | .d => [.d]
  | .e => [.e]
  | .h => [.h]
  | .l => [.l]
  | .sp => [.sp]
  | .pc => [.pc]

/-! ### Address Space -/

/-- What a byte that nothing has written reads as. DESIGN CHOICE (assumption log 4): the spec leaves `INIT_MEM` open
(70_reset_and_hazards.md R146). -/
def Memory.unlisted : Byte := 0x00#8

/-- The byte at an address, listed or not. -/
def Memory.get : Memory → Nat → Byte
  | [], _ => Memory.unlisted
  | (k, v) :: m, a => if a = k then v else Memory.get m a

/-- The memory with one byte replaced, kept in canonical form. -/
def Memory.set : Memory → Nat → Byte → Memory
  | [], a, b => if b = Memory.unlisted then [] else [(a, b)]
  | (k, v) :: m, a, b =>
    if a < k then (if b = Memory.unlisted then (k, v) :: m else (a, b) :: (k, v) :: m)
    else if a = k then (if b = Memory.unlisted then m else (a, b) :: m)
    else (k, v) :: Memory.set m a b

/-- The canonical form of a list whose addresses are at least `lo`. -/
def Memory.wfFrom : Nat → Memory → Bool
  | _, [] => true
  | lo, (k, v) :: m =>
    decide (lo ≤ k) && decide (k < Config.memorySize) && decide (v ≠ Memory.unlisted) && Memory.wfFrom (k + 1) m

/-- The canonical form: addresses strictly rising and below 0x10000, no entry equal to what an unlisted one reads. -/
def Memory.wf (m : Memory) : Bool := Memory.wfFrom 0 m

/-- `MemRead(a, 1)` (20_memory.md R41). -/
def Memory.read (m : Memory) (a : Nat) : Except ErrorKind Byte :=
  if a < Config.memorySize then .ok (m.get a) else .error (.outOfBounds a)

/-- `MemWrite(a, 1, b)` (20_memory.md R42). -/
def Memory.write (m : Memory) (a : Nat) (b : Byte) : Except ErrorKind Memory :=
  if a < Config.memorySize then .ok (m.set a b) else .error (.outOfBounds a)

/-- `MemRead(a, n)`: all `n` bytes or the first address out of range (20_memory.md R43); byte by byte, the first
failing one ends it. -/
def Memory.readMany (m : Memory) : Nat → Nat → Except ErrorKind (List Byte)
  | _, 0 => .ok []
  | a, n + 1 =>
    match m.read a with
    | .error k => .error k
    | .ok b =>
      match m.readMany (a + 1) n with
      | .error k => .error k
      | .ok bs => .ok (b :: bs)

/-- `MemWrite(a, n, bs)`: left to right, an error at the first failing byte, earlier bytes remain written
(20_memory.md R44). -/
def Memory.writeMany (m : Memory) : Nat → List Byte → Memory × Option ErrorKind
  | _, [] => (m, none)
  | a, b :: bs =>
    match m.write a b with
    | .error k => (m, some k)
    | .ok m' => m'.writeMany (a + 1) bs

/-! ### State updates -/

/-- `Reg[id] <- v` on the whole state. -/
def State.writeReg (s : State) (id : RegId) (v : Word) : State := { s with regs := s.regs.write id v }

/-- The state with another memory. -/
def State.setMem (s : State) (m : Memory) : State := { s with mem := m }

/-- A transition of the fetch state machine (40_fetch_execute.md R85). -/
def State.setPhase (s : State) (p : FetchPhase) : State := { s with phase := p }

/-- The output of a call. -/
def State.setResult (s : State) (r : CallResult) : State := { s with result := some r }

/-- What an error does to the composed machine: the call returns it, and `fault <- some(kind)`; no register is saved,
nothing is vectored, PC is not advanced (40_fetch_execute.md R94, 60_exceptions.md R135). There is no return (R136). -/
def State.raise (s : State) (k : ErrorKind) : State := { s.setResult (.error k) with fault := some k }

/-- `Reg[PC] <- (Reg[PC] + L) mod 0x10000` (40_fetch_execute.md R94). -/
def State.advancePc (s : State) (length : Nat) : State :=
  s.writeReg .pc (s.regs.read .pc + BitVec.ofNat 16 length)

/-! ### The shared loads and stores -/

/-- `Reg[d] <- zext_16(MemRead(a, 1))`: every load from memory (41_load_core.md R101). -/
def loadByte (dst : Reg8) (a : Nat) (s : State) : StepOutcome :=
  match s.mem.read a with
  | .error k => .fault (.raised k)
  | .ok b => .next (s.writeReg dst.id (zext16 b))

/-- `MemWrite(a, 1, b)`: every store (41_load_core.md R102). -/
def storeByte (a : Nat) (b : Byte) (s : State) : StepOutcome :=
  match s.mem.write a b with
  | .error k => .fault (.raised k)
  | .ok m => .next (s.setMem m)

/-- `Reg[HL] <- v` after an access that succeeded (42_load_extension.md R120-R123). -/
def thenSetHL (v : Word) (outcome : StepOutcome) : StepOutcome :=
  match outcome with
  | .next s => .next (s.writeReg .hl v)
  | .fault r => .fault r
  | .refused r => .refused r

end Sys2Proof.Machine
end

