-- ==== Sys2Proof/Machine/Operands.lean ====
section
/-! DEFINITION. Operand forms: the address each memory operand names (41_load_core.md, 42_load_extension.md), access to
the tagged operands of R64 (40_fetch_execute.md R90), and the address an instruction stores to. -/

namespace Sys2Proof.Machine

/-- `(HL)`: the address is the value of HL before the instruction (41_load_core.md R101, R104). -/
def addrHL (s : State) : Nat := (s.regs.read .hl).toNat

/-- `(BC)` (42_load_extension.md R110, R112). -/
def addrBC (s : State) : Nat := (s.regs.read .bc).toNat

/-- `(DE)` (42_load_extension.md R111, R113). -/
def addrDE (s : State) : Nat := (s.regs.read .de).toNat

/-- `(n16)` (42_load_extension.md R114, R115). -/
def addrAbs (nn : Word) : Nat := nn.toNat

/-- `(n8)` of LDH: `0xFF00 + n` (42_load_extension.md R118, R119). -/
def addrHigh (n : Byte) : Nat := Config.highPage + n.toNat

/-- `(C)` of LDH: `0xFF00 + C` (42_load_extension.md R116, R117). -/
def addrHighC (s : State) : Nat := Config.highPage + (s.regs.read .c).toNat

/-- The value of an operand: a register, zero-extended, or the byte at HL (40_fetch_execute.md R90). -/
def readOperand (o : Operand) (s : State) : Except ErrorKind Word :=
  match o with
  | .register r => .ok (s.regs.read r.id)
  | .memoryViaHL => (s.mem.read (addrHL s)).map zext16

/-- A write to an operand: a register, or the byte at HL; only the low byte is stored (40_fetch_execute.md R90). -/
def writeOperand (o : Operand) (v : Word) (s : State) : StepOutcome :=
  match o with
  | .register r => .next (s.writeReg r.id v)
  | .memoryViaHL => storeByte (addrHL s) (lowByte v) s

/-- The register of an operand where a register is required; the memory sentinel there is `UnknownRegister`
(60_exceptions.md R129). -/
def requireRegister : Operand → Except ErrorKind RegId
  | .register r => .ok r.id
  | .memoryViaHL => .error .unknownRegister

/-- A load between two operands: the source is read before the destination is written (41_load_core.md R100-R102). -/
def loadOperand (dst src : Operand) (s : State) : StepOutcome :=
  match readOperand src s with
  | .error k => .fault (.raised k)
  | .ok v => writeOperand dst v s

/-- LD d, s (41_load_core.md R100). -/
def loadRegisterFromRegister (dst src : Reg8) (s : State) : StepOutcome :=
  loadOperand (.register dst) (.register src) s

/-- LD d, (HL) (41_load_core.md R101). -/
def loadRegisterFromMemory (dst : Reg8) (s : State) : StepOutcome :=
  loadOperand (.register dst) .memoryViaHL s

/-- LD (HL), s (41_load_core.md R102). -/
def loadMemoryFromRegister (src : Reg8) (s : State) : StepOutcome :=
  loadOperand .memoryViaHL (.register src) s

/-- LD d, n8 (42_load_extension.md R108). -/
def loadRegisterFromImmediate (dst : Reg8) (n : Byte) (s : State) : StepOutcome :=
  .next (s.writeReg dst.id (zext16 n))

/-- The address an instruction stores its byte to, if it stores one (20_memory.md R45). -/
def storeAddress (k : Kind) (s : State) : Option Nat :=
  match k with
  | .loadMemoryFromRegister _ => some (addrHL s)
  | .loadMemoryFromImmediate _ => some (addrHL s)
  | .loadBCFromA => some (addrBC s)
  | .loadDEFromA => some (addrDE s)
  | .loadAbsoluteFromA nn => some (addrAbs nn)
  | .loadHighCFromA => some (addrHighC s)
  | .loadHighImmediateFromA n => some (addrHigh n)
  | .loadHLIncrementFromA => some (addrHL s)
  | .loadHLDecrementFromA => some (addrHL s)
  | .loadRegisterFromRegister _ _ => none
  | .loadRegisterFromMemory _ => none
  | .loadRegisterFromImmediate _ _ => none
  | .loadAFromBC => none
  | .loadAFromDE => none
  | .loadAFromAbsolute _ => none
  | .loadAFromHighC => none
  | .loadAFromHighImmediate _ => none
  | .loadAFromHLIncrement => none
  | .loadAFromHLDecrement => none

/-- The register cells an instruction writes (10_state.md R29; 42_load_extension.md R120-R123 write HL too). -/
def writtenCells (k : Kind) : List RegId :=
  match k with
  | .loadRegisterFromRegister dst _ => [dst.id]
  | .loadRegisterFromMemory dst => [dst.id]
  | .loadRegisterFromImmediate dst _ => [dst.id]
  | .loadAFromBC => [.a]
  | .loadAFromDE => [.a]
  | .loadAFromAbsolute _ => [.a]
  | .loadAFromHighC => [.a]
  | .loadAFromHighImmediate _ => [.a]
  | .loadAFromHLIncrement => [.a, .h, .l]
  | .loadAFromHLDecrement => [.a, .h, .l]
  | .loadHLIncrementFromA => [.h, .l]
  | .loadHLDecrementFromA => [.h, .l]
  | .loadMemoryFromRegister _ => []
  | .loadMemoryFromImmediate _ => []
  | .loadBCFromA => []
  | .loadDEFromA => []
  | .loadAbsoluteFromA _ => []
  | .loadHighCFromA => []
  | .loadHighImmediateFromA _ => []

end Sys2Proof.Machine
end

