-- ==== Sys2Proof/Machine/LoadCore.lean ====
section
/-! DEFINITION. The 63 loads of the base configuration (41_load_core.md R100-R106), one definition each over the shared operand loads. No meaning writes PC (40_fetch_execute.md R88). -/

namespace Sys2Proof.Machine

/-- LD B,B (0x40): 41_load_core.md R100, R103. -/
def execLdBB (s : State) : StepOutcome :=
  loadRegisterFromRegister .b .b s

/-- LD B,C (0x41): 41_load_core.md R100. -/
def execLdBC (s : State) : StepOutcome :=
  loadRegisterFromRegister .b .c s

/-- LD B,D (0x42): 41_load_core.md R100. -/
def execLdBD (s : State) : StepOutcome :=
  loadRegisterFromRegister .b .d s

/-- LD B,E (0x43): 41_load_core.md R100. -/
def execLdBE (s : State) : StepOutcome :=
  loadRegisterFromRegister .b .e s

/-- LD B,H (0x44): 41_load_core.md R100. -/
def execLdBH (s : State) : StepOutcome :=
  loadRegisterFromRegister .b .h s

/-- LD B,L (0x45): 41_load_core.md R100. -/
def execLdBL (s : State) : StepOutcome :=
  loadRegisterFromRegister .b .l s

/-- LD B,(HL) (0x46): 41_load_core.md R101. -/
def execLdBAtHL (s : State) : StepOutcome :=
  loadRegisterFromMemory .b s

/-- LD B,A (0x47): 41_load_core.md R100. -/
def execLdBA (s : State) : StepOutcome :=
  loadRegisterFromRegister .b .a s

/-- LD C,B (0x48): 41_load_core.md R100. -/
def execLdCB (s : State) : StepOutcome :=
  loadRegisterFromRegister .c .b s

/-- LD C,C (0x49): 41_load_core.md R100, R103. -/
def execLdCC (s : State) : StepOutcome :=
  loadRegisterFromRegister .c .c s

/-- LD C,D (0x4A): 41_load_core.md R100. -/
def execLdCD (s : State) : StepOutcome :=
  loadRegisterFromRegister .c .d s

/-- LD C,E (0x4B): 41_load_core.md R100. -/
def execLdCE (s : State) : StepOutcome :=
  loadRegisterFromRegister .c .e s

/-- LD C,H (0x4C): 41_load_core.md R100. -/
def execLdCH (s : State) : StepOutcome :=
  loadRegisterFromRegister .c .h s

/-- LD C,L (0x4D): 41_load_core.md R100. -/
def execLdCL (s : State) : StepOutcome :=
  loadRegisterFromRegister .c .l s

/-- LD C,(HL) (0x4E): 41_load_core.md R101. -/
def execLdCAtHL (s : State) : StepOutcome :=
  loadRegisterFromMemory .c s

/-- LD C,A (0x4F): 41_load_core.md R100. -/
def execLdCA (s : State) : StepOutcome :=
  loadRegisterFromRegister .c .a s

/-- LD D,B (0x50): 41_load_core.md R100. -/
def execLdDB (s : State) : StepOutcome :=
  loadRegisterFromRegister .d .b s

/-- LD D,C (0x51): 41_load_core.md R100. -/
def execLdDC (s : State) : StepOutcome :=
  loadRegisterFromRegister .d .c s

/-- LD D,D (0x52): 41_load_core.md R100, R103. -/
def execLdDD (s : State) : StepOutcome :=
  loadRegisterFromRegister .d .d s

/-- LD D,E (0x53): 41_load_core.md R100. -/
def execLdDE (s : State) : StepOutcome :=
  loadRegisterFromRegister .d .e s

/-- LD D,H (0x54): 41_load_core.md R100. -/
def execLdDH (s : State) : StepOutcome :=
  loadRegisterFromRegister .d .h s

/-- LD D,L (0x55): 41_load_core.md R100. -/
def execLdDL (s : State) : StepOutcome :=
  loadRegisterFromRegister .d .l s

/-- LD D,(HL) (0x56): 41_load_core.md R101. -/
def execLdDAtHL (s : State) : StepOutcome :=
  loadRegisterFromMemory .d s

/-- LD D,A (0x57): 41_load_core.md R100. -/
def execLdDA (s : State) : StepOutcome :=
  loadRegisterFromRegister .d .a s

/-- LD E,B (0x58): 41_load_core.md R100. -/
def execLdEB (s : State) : StepOutcome :=
  loadRegisterFromRegister .e .b s

/-- LD E,C (0x59): 41_load_core.md R100. -/
def execLdEC (s : State) : StepOutcome :=
  loadRegisterFromRegister .e .c s

/-- LD E,D (0x5A): 41_load_core.md R100. -/
def execLdED (s : State) : StepOutcome :=
  loadRegisterFromRegister .e .d s

/-- LD E,E (0x5B): 41_load_core.md R100, R103. -/
def execLdEE (s : State) : StepOutcome :=
  loadRegisterFromRegister .e .e s

/-- LD E,H (0x5C): 41_load_core.md R100. -/
def execLdEH (s : State) : StepOutcome :=
  loadRegisterFromRegister .e .h s

/-- LD E,L (0x5D): 41_load_core.md R100. -/
def execLdEL (s : State) : StepOutcome :=
  loadRegisterFromRegister .e .l s

/-- LD E,(HL) (0x5E): 41_load_core.md R101. -/
def execLdEAtHL (s : State) : StepOutcome :=
  loadRegisterFromMemory .e s

/-- LD E,A (0x5F): 41_load_core.md R100. -/
def execLdEA (s : State) : StepOutcome :=
  loadRegisterFromRegister .e .a s

/-- LD H,B (0x60): 41_load_core.md R100. -/
def execLdHB (s : State) : StepOutcome :=
  loadRegisterFromRegister .h .b s

/-- LD H,C (0x61): 41_load_core.md R100. -/
def execLdHC (s : State) : StepOutcome :=
  loadRegisterFromRegister .h .c s

/-- LD H,D (0x62): 41_load_core.md R100. -/
def execLdHD (s : State) : StepOutcome :=
  loadRegisterFromRegister .h .d s

/-- LD H,E (0x63): 41_load_core.md R100. -/
def execLdHE (s : State) : StepOutcome :=
  loadRegisterFromRegister .h .e s

/-- LD H,H (0x64): 41_load_core.md R100, R103. -/
def execLdHH (s : State) : StepOutcome :=
  loadRegisterFromRegister .h .h s

/-- LD H,L (0x65): 41_load_core.md R100. -/
def execLdHL (s : State) : StepOutcome :=
  loadRegisterFromRegister .h .l s

/-- LD H,(HL) (0x66): 41_load_core.md R101, R104. -/
def execLdHAtHL (s : State) : StepOutcome :=
  loadRegisterFromMemory .h s

/-- LD H,A (0x67): 41_load_core.md R100. -/
def execLdHA (s : State) : StepOutcome :=
  loadRegisterFromRegister .h .a s

/-- LD L,B (0x68): 41_load_core.md R100. -/
def execLdLB (s : State) : StepOutcome :=
  loadRegisterFromRegister .l .b s

/-- LD L,C (0x69): 41_load_core.md R100. -/
def execLdLC (s : State) : StepOutcome :=
  loadRegisterFromRegister .l .c s

/-- LD L,D (0x6A): 41_load_core.md R100. -/
def execLdLD (s : State) : StepOutcome :=
  loadRegisterFromRegister .l .d s

/-- LD L,E (0x6B): 41_load_core.md R100. -/
def execLdLE (s : State) : StepOutcome :=
  loadRegisterFromRegister .l .e s

/-- LD L,H (0x6C): 41_load_core.md R100. -/
def execLdLH (s : State) : StepOutcome :=
  loadRegisterFromRegister .l .h s

/-- LD L,L (0x6D): 41_load_core.md R100, R103. -/
def execLdLL (s : State) : StepOutcome :=
  loadRegisterFromRegister .l .l s

/-- LD L,(HL) (0x6E): 41_load_core.md R101, R104. -/
def execLdLAtHL (s : State) : StepOutcome :=
  loadRegisterFromMemory .l s

/-- LD L,A (0x6F): 41_load_core.md R100. -/
def execLdLA (s : State) : StepOutcome :=
  loadRegisterFromRegister .l .a s

/-- LD (HL),B (0x70): 41_load_core.md R102. -/
def execLdAtHLB (s : State) : StepOutcome :=
  loadMemoryFromRegister .b s

/-- LD (HL),C (0x71): 41_load_core.md R102. -/
def execLdAtHLC (s : State) : StepOutcome :=
  loadMemoryFromRegister .c s

/-- LD (HL),D (0x72): 41_load_core.md R102. -/
def execLdAtHLD (s : State) : StepOutcome :=
  loadMemoryFromRegister .d s

/-- LD (HL),E (0x73): 41_load_core.md R102. -/
def execLdAtHLE (s : State) : StepOutcome :=
  loadMemoryFromRegister .e s

/-- LD (HL),H (0x74): 41_load_core.md R102, R105. -/
def execLdAtHLH (s : State) : StepOutcome :=
  loadMemoryFromRegister .h s

/-- LD (HL),L (0x75): 41_load_core.md R102, R105. -/
def execLdAtHLL (s : State) : StepOutcome :=
  loadMemoryFromRegister .l s

/-- LD (HL),A (0x77): 41_load_core.md R102. -/
def execLdAtHLA (s : State) : StepOutcome :=
  loadMemoryFromRegister .a s

/-- LD A,B (0x78): 41_load_core.md R100. -/
def execLdAB (s : State) : StepOutcome :=
  loadRegisterFromRegister .a .b s

/-- LD A,C (0x79): 41_load_core.md R100. -/
def execLdAC (s : State) : StepOutcome :=
  loadRegisterFromRegister .a .c s

/-- LD A,D (0x7A): 41_load_core.md R100. -/
def execLdAD (s : State) : StepOutcome :=
  loadRegisterFromRegister .a .d s

/-- LD A,E (0x7B): 41_load_core.md R100. -/
def execLdAE (s : State) : StepOutcome :=
  loadRegisterFromRegister .a .e s

/-- LD A,H (0x7C): 41_load_core.md R100. -/
def execLdAH (s : State) : StepOutcome :=
  loadRegisterFromRegister .a .h s

/-- LD A,L (0x7D): 41_load_core.md R100. -/
def execLdAL (s : State) : StepOutcome :=
  loadRegisterFromRegister .a .l s

/-- LD A,(HL) (0x7E): 41_load_core.md R101. -/
def execLdAAtHL (s : State) : StepOutcome :=
  loadRegisterFromMemory .a s

/-- LD A,A (0x7F): 41_load_core.md R100, R103. -/
def execLdAA (s : State) : StepOutcome :=
  loadRegisterFromRegister .a .a s

end Sys2Proof.Machine
end

