-- ==== Sys2Proof/Machine/LoadExtension.lean ====
section
/-! DEFINITION. The 22 loads of `LOAD_EXT` (42_load_extension.md R107-R123), one definition each over the shared loads and stores. No meaning writes PC (40_fetch_execute.md R88). -/

namespace Sys2Proof.Machine

/-- LD B,n8 (0x06): 42_load_extension.md R108. -/
def execLdBImm (n : Byte) (s : State) : StepOutcome :=
  loadRegisterFromImmediate .b n s

/-- LD C,n8 (0x0E): 42_load_extension.md R108. -/
def execLdCImm (n : Byte) (s : State) : StepOutcome :=
  loadRegisterFromImmediate .c n s

/-- LD D,n8 (0x16): 42_load_extension.md R108. -/
def execLdDImm (n : Byte) (s : State) : StepOutcome :=
  loadRegisterFromImmediate .d n s

/-- LD E,n8 (0x1E): 42_load_extension.md R108. -/
def execLdEImm (n : Byte) (s : State) : StepOutcome :=
  loadRegisterFromImmediate .e n s

/-- LD H,n8 (0x26): 42_load_extension.md R108. -/
def execLdHImm (n : Byte) (s : State) : StepOutcome :=
  loadRegisterFromImmediate .h n s

/-- LD L,n8 (0x2E): 42_load_extension.md R108. -/
def execLdLImm (n : Byte) (s : State) : StepOutcome :=
  loadRegisterFromImmediate .l n s

/-- LD A,n8 (0x3E): 42_load_extension.md R108. -/
def execLdAImm (n : Byte) (s : State) : StepOutcome :=
  loadRegisterFromImmediate .a n s

/-- LD (HL),n8 (0x36): 42_load_extension.md R109. -/
def execLdAtHLImm (n : Byte) (s : State) : StepOutcome :=
  storeByte (addrHL s) n s

/-- LD A,(BC) (0x0A): 42_load_extension.md R110. -/
def execLdAAtBC (s : State) : StepOutcome :=
  loadByte .a (addrBC s) s

/-- LD A,(DE) (0x1A): 42_load_extension.md R111. -/
def execLdAAtDE (s : State) : StepOutcome :=
  loadByte .a (addrDE s) s

/-- LD (BC),A (0x02): 42_load_extension.md R112. -/
def execLdAtBCA (s : State) : StepOutcome :=
  storeByte (addrBC s) (lowByte (s.regs.read .a)) s

/-- LD (DE),A (0x12): 42_load_extension.md R113. -/
def execLdAtDEA (s : State) : StepOutcome :=
  storeByte (addrDE s) (lowByte (s.regs.read .a)) s

/-- LD A,(n16) (0xFA): 42_load_extension.md R114. -/
def execLdAAtAbs (nn : Word) (s : State) : StepOutcome :=
  loadByte .a (addrAbs nn) s

/-- LD (n16),A (0xEA): 42_load_extension.md R115. -/
def execLdAtAbsA (nn : Word) (s : State) : StepOutcome :=
  storeByte (addrAbs nn) (lowByte (s.regs.read .a)) s

/-- LDH A,(C) (0xF2): 42_load_extension.md R116. -/
def execLdhAAtC (s : State) : StepOutcome :=
  loadByte .a (addrHighC s) s

/-- LDH (C),A (0xE2): 42_load_extension.md R117. -/
def execLdhAtCA (s : State) : StepOutcome :=
  storeByte (addrHighC s) (lowByte (s.regs.read .a)) s

/-- LDH A,(n8) (0xF0): 42_load_extension.md R118. -/
def execLdhAAtImm (n : Byte) (s : State) : StepOutcome :=
  loadByte .a (addrHigh n) s

/-- LDH (n8),A (0xE0): 42_load_extension.md R119. -/
def execLdhAtImmA (n : Byte) (s : State) : StepOutcome :=
  storeByte (addrHigh n) (lowByte (s.regs.read .a)) s

/-- LD A,(HL+) (0x2A): 42_load_extension.md R120. -/
def execLdAAtHLInc (s : State) : StepOutcome :=
  thenSetHL (s.regs.read .hl + 1) (loadByte .a (addrHL s) s)

/-- LD A,(HL-) (0x3A): 42_load_extension.md R121. -/
def execLdAAtHLDec (s : State) : StepOutcome :=
  thenSetHL (s.regs.read .hl - 1) (loadByte .a (addrHL s) s)

/-- LD (HL+),A (0x22): 42_load_extension.md R122. -/
def execLdAtHLIncA (s : State) : StepOutcome :=
  thenSetHL (s.regs.read .hl + 1) (storeByte (addrHL s) (lowByte (s.regs.read .a)) s)

/-- LD (HL-),A (0x32): 42_load_extension.md R123. -/
def execLdAtHLDecA (s : State) : StepOutcome :=
  thenSetHL (s.regs.read .hl - 1) (storeByte (addrHL s) (lowByte (s.regs.read .a)) s)

end Sys2Proof.Machine
end

