-- ==== Sys2Proof/Machine/FetchExecute.lean ====
section
/-! DEFINITION. The Fetch-Execute Cycle `run_one` and the composed step around it (40_fetch_execute.md R85, R94), and
the placing of an instruction's bytes where the next fetch reads. -/

namespace Sys2Proof.Machine

/-- What a fetch ends with: the decoded Instruction, or the first error raised; and the state then. -/
inductive FetchOutcome
  | decoded (d : Decoded) (s : State)
  | failed (k : ErrorKind) (s : State)
deriving DecidableEq, Repr

/-- The end of a decode that may not ask for more bytes (40_fetch_execute.md R85, R91): asking is a contract
violation. -/
def endOfFetch (outcome : DecodeOutcome) (s : State) : FetchOutcome :=
  match outcome with
  | .complete d => .decoded d s
  | .needMoreBytes _ => .failed .decoderContractViolation s
  | .error k => .failed k s

/-- Phase 2: in *need-more-bytes*, read exactly the missing bytes after the first, with no wrap, and decode again;
the machine is *ready* again however it ends (40_fetch_execute.md R85; 10_state.md R36). -/
def fetchRest (b0 : Byte) (n : Nat) (s : State) : FetchOutcome :=
  let waiting := s.setPhase .needMoreBytes
  match waiting.mem.readMany ((waiting.regs.read .pc).toNat + 1) n with
  | .error k => .failed k (waiting.setPhase .ready)
  | .ok rest => endOfFetch (decode waiting.loadExt (b0 :: rest)) (waiting.setPhase .ready)

/-- Phase 1, and phase 2 where the decoder asks for it (40_fetch_execute.md R85). -/
def fetch (s : State) : FetchOutcome :=
  match s.mem.read (s.regs.read .pc).toNat with
  | .error k => .failed k s
  | .ok b0 =>
    match decode s.loadExt [b0] with
    | .needMoreBytes n => fetchRest b0 n s
    | outcome => endOfFetch outcome s

/-- How a call of `run_one` ends: `Ok(cycles, length)`, or the error raised, with the state as the call left it
(40_fetch_execute.md R84, R92), or a refusal of the model. -/
inductive RunOutcome
  | ok (cycles length : Nat) (s : State)
  | error (k : ErrorKind) (s : State)
  | refused (r : Refusal)
deriving DecidableEq, Repr

/-- `execute(i)` on a fetched Instruction: its cost and length on success (40_fetch_execute.md R85, R89, R93). -/
def executeDecoded (d : Decoded) (s : State) : RunOutcome :=
  match exec d.instr s with
  | .next t => .ok d.cycles d.length t
  | .fault (.raised k) => .error k s
  | .fault (.stuck k) => .error k s
  | .refused r => .refused r

/-- `run_one()` (40_fetch_execute.md R84, R85). It never looks at `fault`: an error is a returned value (R92). -/
def runOne (s : State) : RunOutcome :=
  match s.phase with
  | .needMoreBytes => .refused .callInProgress
  | .ready =>
    match fetch s with
    | .failed k t => .error k t
    | .decoded d t => executeDecoded d t

/-- `step()` of the composed machine (40_fetch_execute.md R94): no step once faulted (R99) or at `END_PC` (R96); else
one call, then the PC advance or the fault. The error step is a next state: the machine stops at the one after. -/
def composedStep (s : State) : StepOutcome :=
  match s.fault with
  | some k => .fault (.stuck k)
  | none =>
    if s.endPc = some (s.regs.read .pc) then .refused .runEnded
    else
      match runOne s with
      | .ok cycles length t => .next ((t.advancePc length).setResult (.ok cycles length))
      | .error k t => .next (t.raise k)
      | .refused r => .refused r

/-- The bytes of an instruction numbered as spec/opcode_table.json numbers it, padded with zeros to the longest. -/
def tableBytes (nbits w : Nat) : List Byte :=
  [tableByte nbits w 0, tableByte nbits w 1, tableByte nbits w 2]

/-- The opcode byte is classified only when `LOAD_EXT` is true (42_load_extension.md R107). -/
def needsLoadExt (op : Byte) : Bool := (classify false op).isNone && (classify true op).isSome

/-- The state with an instruction's bytes stored at PC, as a program loaded from outside (70_reset_and_hazards.md R147),
`LOAD_EXT` turned on if the instruction exists only then, and nothing in the way of the next step (no fault, no end of
run at PC, no call in progress). Bytes past 0xFFFF are dropped (assumption log 18). -/
def placeInstruction (s : State) (nbits w : Nat) : State :=
  { s with
    mem := (s.mem.writeMany (s.regs.read .pc).toNat (tableBytes nbits w)).1
    phase := .ready
    fault := none
    loadExt := s.loadExt || needsLoadExt (tableByte nbits w 0)
    endPc := if s.endPc = some (s.regs.read .pc) then none else s.endPc }

end Sys2Proof.Machine
end

