-- ==== Sys2Proof/Machine/HostInterface.lean ====
section
/-! DEFINITION. The host's side of the core: launching a machine from the spec's parameters (70_reset_and_hazards.md
R143-R150) and the host's accesses between calls (60_exceptions.md R141). -/

namespace Sys2Proof.Machine

/-- The launch parameters (00_scope.md R8): `INIT_REGS` (its PC field is `RESET_PC`), `INIT_MEM`, `LOAD_EXT`,
`END_PC`. -/
structure Launch where
  initRegs : RegFile
  initMem  : Memory
  loadExt  : Bool
  endPc    : Option Word
deriving DecidableEq, Repr

/-- Creation of a machine: every register and byte from the launch, *ready*, no fault (70_reset_and_hazards.md R144,
R146, R148, R149); a launch with F[3:0] not zero is refused (R145). -/
def State.launch (p : Launch) : StepOutcome :=
  if p.initRegs.flagsWf = false then .refused .launchFlagsNotZero
  else if p.initMem.wf = false then .refused .launchMemoryNotCanonical
  else .next
    { regs := p.initRegs, mem := p.initMem, phase := .ready, fault := none, result := none,
      loadExt := p.loadExt, endPc := p.endPc }

/-- A host access between two calls (60_exceptions.md R141): the Register File by any of the 14 ids, the Address Space
at any address. ROM loading is `writeMem`; an interrupt, a PPU or a timer acts through these. -/
inductive HostAction
  | readReg (id : RegId)
  | writeReg (id : RegId) (v : Word)
  | readMem (address count : Nat)
  | writeMem (address : Nat) (bytes : List Byte)
deriving DecidableEq, Repr

/-- What a host access gives back (60_exceptions.md R141). -/
inductive HostReply
  | value (v : Word)
  | bytes (bs : List Byte)
  | done
  | error (k : ErrorKind)
  | callInProgress
deriving DecidableEq, Repr

/-- A host access. It acts only between calls (20_memory.md R56); a multi-byte write that fails keeps its earlier bytes
(R44). The core records nothing of it: errors are returned values (10_state.md R37). -/
def hostAct (act : HostAction) (s : State) : HostReply × State :=
  match s.phase with
  | .needMoreBytes => (.callInProgress, s)
  | .ready =>
    match act with
    | .readReg id => (.value (s.regs.read id), s)
    | .writeReg id v => (.done, s.writeReg id v)
    | .readMem a n =>
      match s.mem.readMany a n with
      | .ok bs => (.bytes bs, s)
      | .error k => (.error k, s)
    | .writeMem a bs =>
      match s.mem.writeMany a bs with
      | (m, none) => (.done, s.setMem m)
      | (m, some k) => (.error k, s.setMem m)

/-- The ordinal of an error kind; a label only (60_exceptions.md R125). -/
def errorCode : ErrorKind → Nat
  | .invalidOpcode => 1
  | .wrongOpcodeSize _ => 2
  | .outOfBounds _ => 3
  | .unknownRegister => 4
  | .unknownOpcode => 5
  | .decoderContractViolation => 6

end Sys2Proof.Machine
end

