-- ==== Sys2Proof/Machine/Step.lean ====
section
/-! DEFINITION. One step of the composed machine (40_fetch_execute.md R94), and the placing of its next instruction. -/

namespace Sys2Proof.Machine

/-- One step: `composedStep`. -/
def step (s : State) : Host.Outcome State Fault Refusal := composedStep s

/-- The state in which the very next step fetches and runs the instruction whose bits are `w`: `placeInstruction`. -/
def State.withFetchWord (s : State) (nbits w : Nat) : State := placeInstruction s nbits w

end Sys2Proof.Machine
end

