-- ==== Sys2Proof/Safety.lean ====
section
/-! DEFINITION. The terms in which claims are made: the machine's invariant, the reachable states, how a run ends, and
what an instruction leaves unchanged. -/

namespace Sys2Proof.Machine

/-- The invariant: F[3:0] = 0 (10_state.md R20), the memory in canonical form, no call in progress (R36). -/
def Inv (s : State) : Prop :=
  s.regs.flagsWf = true ∧ s.mem.wf = true ∧ s.phase = .ready

/-- A state the machine can be in between calls: from a launch, by steps and host accesses in any order
(60_exceptions.md R141). -/
inductive Reachable : State → Prop
  | launch {p : Launch} {s : State} : State.launch p = .next s → Reachable s
  | step {s t : State} : Reachable s → Machine.step s = .next t → Reachable t
  | host {s : State} (act : HostAction) : Reachable s → Reachable (hostAct act s).2

/-- The run has ended normally (40_fetch_execute.md R96). -/
def endsNormally (s : State) : Prop := s.fault = none ∧ s.endPc = some (s.regs.read .pc)

/-- The run has ended faulted (40_fetch_execute.md R96). -/
def endsFaulted (s : State) : Prop := s.fault ≠ none

/-- A step can begin: the launch premise of 70_reset_and_hazards.md R150, and not at `END_PC`. -/
def canStep (s : State) : Prop := s.fault = none ∧ s.phase = .ready ∧ s.endPc ≠ some (s.regs.read .pc)

/-- A step that ran its instruction without an error. -/
def stepsSafely (s t : State) : Prop := Machine.step s = .next t ∧ t.fault = none

/-- Every register cell but those in `written` holds what it held. -/
def cellsKeptBut (written : List RegId) (s t : State) : Prop :=
  ∀ r, isCell r = true → r ∉ written → t.regs.read r = s.regs.read r

/-- Every address but those in `stored` reads as it did. -/
def bytesKeptBut (stored : List Nat) (s t : State) : Prop :=
  ∀ a, a ∉ stored → t.mem.read a = s.mem.read a

/-- The state outside the Register File and the Address Space is what it was. -/
def restKept (s t : State) : Prop :=
  t.phase = s.phase ∧ t.fault = s.fault ∧ t.result = s.result ∧ t.loadExt = s.loadExt ∧ t.endPc = s.endPc

/-- Executing the instruction in `s` answers a next state that meets `post`; the register cells in `written` and the
bytes at `stored` may change, nothing else does; and F is not read: whatever it holds, the instruction does the same. -/
def executesTo (i : Instr) (s : State) (written : List RegId) (stored : List Nat) (post : State → Prop) : Prop :=
  ∃ t, exec i s = .next t ∧ post t ∧ cellsKeptBut written s t ∧ bytesKeptBut stored s t ∧ restKept s t ∧
    ∀ f : Byte, exec i { s with regs := { s.regs with f := f } } = .next { t with regs := { t.regs with f := f } }

/-- The state after a failed call: the error returned and recorded, everything else as it was (40_fetch_execute.md
R94, 60_exceptions.md R133). -/
def failedWith (k : ErrorKind) (s : State) : State :=
  { s with fault := some k, result := some (.error k) }

/-- The bytes decode to the instruction, with this cost, and are its whole length (30_encoding.md R72). -/
def decodesTo (loadExt : Bool) (bytes : List Byte) (i : Instr) (cycles : Nat) : Prop :=
  ∃ d, decode loadExt bytes = .complete d ∧ d.instr = i ∧ d.cycles = cycles ∧ d.length = bytes.length

/-- How many of the 256 opcode bytes, each alone, decode to an outcome of a sort (95_test_vectors.md L2-3); by
high and low half byte. -/
def opcodeCount (loadExt : Bool) (sort : DecodeOutcome → Bool) : Nat :=
  ((List.range 16).map fun hi =>
    (List.range 16).countP fun lo => sort (decode loadExt [BitVec.ofNat 8 (16 * hi + lo)])).sum

end Sys2Proof.Machine
end

