-- ==== Sys2Proof/Certificates/Slice0/Obligations.lean ====
section
/-! DEFINITION. The statements about the model, in the order of OBLIGATIONS.json. Each docstring names the rule of spec/
it states. -/

open Sys2Proof Sys2Proof.Machine

/-! ### Register File -/

/-- 10_state.md R21, R22, R23: what a read of each of the 14 ids gives. -/
def Obligations.RegisterReadByClass : Prop :=
  ∀ rf : RegFile,
    (rf.read .a = rf.a.setWidth 16 ∧ rf.read .f = rf.f.setWidth 16 ∧ rf.read .b = rf.b.setWidth 16 ∧
      rf.read .c = rf.c.setWidth 16 ∧ rf.read .d = rf.d.setWidth 16 ∧ rf.read .e = rf.e.setWidth 16 ∧
      rf.read .h = rf.h.setWidth 16 ∧ rf.read .l = rf.l.setWidth 16) ∧
    (∀ r, r ∈ [RegId.a, .f, .b, .c, .d, .e, .h, .l] → (rf.read r).toNat < 0x100) ∧
    (rf.read .sp = rf.sp ∧ rf.read .pc = rf.pc) ∧
    (rf.read .af = (rf.a.setWidth 16 <<< 8) ||| rf.f.setWidth 16 ∧
      rf.read .bc = (rf.b.setWidth 16 <<< 8) ||| rf.c.setWidth 16 ∧
      rf.read .de = (rf.d.setWidth 16 <<< 8) ||| rf.e.setWidth 16 ∧
      rf.read .hl = (rf.h.setWidth 16 <<< 8) ||| rf.l.setWidth 16) ∧
    (rf.flagsWf = true → rf.read .af &&& 0x000F#16 = 0#16)

/-- 10_state.md R24, R25, R26: what a write through each of the 14 ids stores. -/
def Obligations.RegisterWriteByClass : Prop :=
  ∀ (rf : RegFile) (v : Word),
    (∀ r, r ∈ [RegId.a, .b, .c, .d, .e, .h, .l] → (rf.write r v).read r = v &&& 0x00FF#16) ∧
    (rf.write .f v).read .f = v &&& 0x00F0#16 ∧
    (rf.write .sp v).read .sp = v ∧ (rf.write .pc v).read .pc = v ∧
    rf.write .af v = (rf.write .a (v >>> 8)).write .f (v &&& 0x00FF#16) ∧
    rf.write .bc v = (rf.write .b (v >>> 8)).write .c (v &&& 0x00FF#16) ∧
    rf.write .de v = (rf.write .d (v >>> 8)).write .e (v &&& 0x00FF#16) ∧
    rf.write .hl v = (rf.write .h (v >>> 8)).write .l (v &&& 0x00FF#16)

/-- 10_state.md section 3: a write leaves every cell it does not name, and F[3:0] zero. -/
def Obligations.RegisterWriteFrame : Prop :=
  ∀ (rf : RegFile) (id r : RegId) (v : Word),
    (isCell r = true → r ∉ cellsOf id → (rf.write id v).read r = rf.read r) ∧
    (rf.flagsWf = true → (rf.write id v).flagsWf = true)

/-- 10_state.md R19: a view and its two bytes are the same storage. -/
def Obligations.ViewsAliasTheirBytes : Prop :=
  ∀ (rf : RegFile) (h l : Byte) (w : Word),
    (((rf.write .b (h.setWidth 16)).write .c (l.setWidth 16)).read .bc = (h.setWidth 16 <<< 8) ||| l.setWidth 16 ∧
      ((rf.write .d (h.setWidth 16)).write .e (l.setWidth 16)).read .de = (h.setWidth 16 <<< 8) ||| l.setWidth 16 ∧
      ((rf.write .h (h.setWidth 16)).write .l (l.setWidth 16)).read .hl = (h.setWidth 16 <<< 8) ||| l.setWidth 16 ∧
      ((rf.write .a (h.setWidth 16)).write .f (l.setWidth 16)).read .af =
        (h.setWidth 16 <<< 8) ||| (l.setWidth 16 &&& 0x00F0#16)) ∧
    ((rf.write .bc w).read .b = w >>> 8 ∧ (rf.write .bc w).read .c = w &&& 0x00FF#16 ∧
      (rf.write .de w).read .d = w >>> 8 ∧ (rf.write .de w).read .e = w &&& 0x00FF#16 ∧
      (rf.write .hl w).read .h = w >>> 8 ∧ (rf.write .hl w).read .l = w &&& 0x00FF#16 ∧
      (rf.write .af w).read .a = w >>> 8 ∧ (rf.write .af w).read .f = w &&& 0x00F0#16)

/-! ### Address Space -/

/-- 20_memory.md R41: a single-byte read is bounds-checked and changes no state. -/
def Obligations.SingleByteReadIsBoundsChecked : Prop :=
  ∀ (s : State) (a : Nat),
    (a < 0x10000 → ∃ b, s.mem.read a = .ok b) ∧
    (0x10000 ≤ a → s.mem.read a = .error (.outOfBounds a)) ∧
    (hostAct (.readMem a 1) s).2 = s

/-- 20_memory.md R42: a single-byte write stores its byte and no other, or fails and mutates nothing. -/
def Obligations.SingleByteWriteStoresOneByte : Prop :=
  ∀ (m : Memory) (a : Nat) (b : Byte), m.wf = true →
    (a < 0x10000 → ∃ m', m.write a b = .ok m' ∧ m'.read a = .ok b ∧ (∀ x, x ≠ a → m'.read x = m.read x) ∧
      m.writeMany a [b] = (m', none)) ∧
    (0x10000 ≤ a → m.write a b = .error (.outOfBounds a) ∧ m.writeMany a [b] = (m, some (.outOfBounds a)))

/-- 20_memory.md R43: a multi-byte read is all or nothing. That a read of 0 bytes succeeds with none is the spec's own
decision D22 (DESIGN CHOICE, assumption log 24). -/
def Obligations.MultiByteReadIsAllOrNothing : Prop :=
  ∀ (m : Memory) (a n : Nat),
    (0 < n → 0x10000 ≤ a + n - 1 → m.readMany a n = .error (.outOfBounds (max a 0x10000))) ∧
    (n = 0 → m.readMany a n = .ok []) ∧
    (a + n ≤ 0x10000 → ∃ bs, m.readMany a n = .ok bs ∧ bs.length = n ∧
      ∀ i, i < n → m.read (a + i) = .ok (bs.getD i 0))

/-- 20_memory.md R44: a multi-byte write keeps the bytes before the first failing one and reports that one. -/
def Obligations.MultiByteWriteKeepsPrefix : Prop :=
  ∀ (m : Memory) (a : Nat) (bs : List Byte), m.wf = true →
    (∀ x, (m.writeMany a bs).1.read x =
      if a ≤ x ∧ x < a + bs.length ∧ x < 0x10000 then .ok (bs.getD (x - a) 0) else m.read x) ∧
    (m.writeMany a bs).2 =
      if bs ≠ [] ∧ 0x10000 < a + bs.length then some (.outOfBounds (max a 0x10000)) else none

/-- 20_memory.md R39, with the canonical form of assumption log 4: equal contents are equal data. -/
def Obligations.CanonicalMemoriesWithEqualBytesAreEqual : Prop :=
  ∀ m m' : Memory, m.wf = true → m'.wf = true → (∀ a, m.read a = m'.read a) → m = m'

/-! ### Decoder -/

/-- 30_encoding.md R63: the operand-field map, and the registers no field names. -/
def Obligations.OperandFieldMap : Prop :=
  operandOf 0b000#3 = .register .b ∧ operandOf 0b001#3 = .register .c ∧ operandOf 0b010#3 = .register .d ∧
  operandOf 0b011#3 = .register .e ∧ operandOf 0b100#3 = .register .h ∧ operandOf 0b101#3 = .register .l ∧
  operandOf 0b110#3 = .memoryViaHL ∧ operandOf 0b111#3 = .register .a ∧
  ∀ (c : BitVec 3) (r : Reg8), operandOf c = .register r → r.id ∉ [RegId.f, .sp, .pc, .af, .bc, .de, .hl]

/-- 30_encoding.md R66: the header-`01` classification, in both configurations. -/
def Obligations.LoadFamilyClassification : Prop :=
  ∀ (ext : Bool) (op : Byte),
    (opHeader op = 0b01#2 →
      (opFirst op = 0b110#3 → opSecond op = 0b110#3 → decode ext [op] = .error .invalidOpcode) ∧
      (∀ src, opFirst op = 0b110#3 → operandOf (opSecond op) = .register src →
        decodesTo ext [op] (Kind.loadMemoryFromRegister src).instr 2) ∧
      (∀ dst, operandOf (opFirst op) = .register dst → opSecond op = 0b110#3 →
        decodesTo ext [op] (Kind.loadRegisterFromMemory dst).instr 2) ∧
      (∀ dst src, operandOf (opFirst op) = .register dst → operandOf (opSecond op) = .register src →
        decodesTo ext [op] (Kind.loadRegisterFromRegister dst src).instr 1)) ∧
    ((∃ d, decode ext [op] = .complete d ∧ d.header = 0b01#2) ↔
      0x40 ≤ op.toNat ∧ op.toNat ≤ 0x7F ∧ op ≠ 0x76#8)

/-- 30_encoding.md R68 and R69: unclassified bytes, whatever follows them, and the empty input, are InvalidOpcode;
exactly the 22 bytes of R107 are classified beside header `01`, and only with `LOAD_EXT`. Which bytes the 22 are is
general knowledge in the spec (PRESUMED, assumption log 9, decision D2); "whatever follows them" is its decision D4
(DESIGN CHOICE, assumption log 21). -/
def Obligations.UnclassifiedBytesAreInvalid : Prop :=
  (∀ ext, decode ext [] = .error .invalidOpcode) ∧
  (∀ (op : Byte) (t : List Byte), opHeader op ≠ 0b01#2 → decode false (op :: t) = .error .invalidOpcode) ∧
  (∀ (op : Byte), opHeader op ≠ 0b01#2 →
    (op ∈ [0x02#8, 0x06#8, 0x0A#8, 0x0E#8, 0x12#8, 0x16#8, 0x1A#8, 0x1E#8, 0x22#8, 0x26#8, 0x2A#8, 0x2E#8, 0x32#8,
        0x36#8, 0x3A#8, 0x3E#8, 0xE0#8, 0xE2#8, 0xEA#8, 0xF0#8, 0xF2#8, 0xFA#8] →
      decode true [op] ≠ .error .invalidOpcode) ∧
    (op ∉ [0x02#8, 0x06#8, 0x0A#8, 0x0E#8, 0x12#8, 0x16#8, 0x1A#8, 0x1E#8, 0x22#8, 0x26#8, 0x2A#8, 0x2E#8, 0x32#8,
        0x36#8, 0x3A#8, 0x3E#8, 0xE0#8, 0xE2#8, 0xEA#8, 0xF0#8, 0xF2#8, 0xFA#8] →
      ∀ t, decode true (op :: t) = .error .invalidOpcode))

/-- 30_encoding.md R67: excess bytes after a valid header-`01` opcode, as a negative delta. -/
def Obligations.ExcessBytesAreWrongOpcodeSize : Prop :=
  ∀ (ext : Bool) (op : Byte) (t : List Byte), opHeader op = 0b01#2 → op ≠ 0x76#8 → t ≠ [] →
    decode ext (op :: t) = .error (.wrongOpcodeSize (-(t.length : Int)))

/-- 30_encoding.md section 5, 92_eei_decisions.md D4: classification comes before any size check (the spec's decision,
DESIGN CHOICE, assumption log 21). -/
def Obligations.ClassificationPrecedesSize : Prop :=
  ∀ (ext : Bool) (op : Byte) (t t' : List Byte),
    decode ext (op :: t) = .error .invalidOpcode → decode ext (op :: t') = .error .invalidOpcode

/-- 30_encoding.md R75, which the spec derives from R72: after NeedMoreBytes(n), n more bytes complete the decode. Only
`LOAD_EXT` opcodes ask for more (PRESUMED, assumption log 9). -/
def Obligations.MissingBytesComplete : Prop :=
  ∀ (ext : Bool) (bs : List Byte) (n : Nat), decode ext bs = .needMoreBytes n →
    0 < n ∧ ∀ more : List Byte, more.length = n → ∃ d, decode ext (bs ++ more) = .complete d

/-- 30_encoding.md R65, 40_fetch_execute.md R89: length and cost depend on the opcode byte alone. -/
def Obligations.LengthAndCostAreOfTheOpcodeByte : Prop :=
  ∀ (ext ext' : Bool) (op : Byte) (t t' : List Byte) (d d' : Decoded),
    decode ext (op :: t) = .complete d → decode ext' (op :: t') = .complete d' →
    d.length = d'.length ∧ d.cycles = d'.cycles

/-- 30_encoding.md R70: the decoded record carries the split fields, the trailing bytes and its length. -/
def Obligations.DecodedRecordFields : Prop :=
  ∀ (ext : Bool) (bs : List Byte) (d : Decoded), decode ext bs = .complete d →
    bs = d.opcode :: d.trailing ∧ d.header = d.opcode.extractLsb' 6 2 ∧ d.first = d.opcode.extractLsb' 3 3 ∧
    d.second = d.opcode.extractLsb' 0 3 ∧ d.length = 1 + d.trailing.length ∧ d.trailing.length ≤ 2 ∧
    1 ≤ d.cycles ∧ d.cycles ≤ 4 ∧ d.instr.kind.instr = d.instr

/-- 00_scope.md R13, 30_encoding.md R71: what decodes exists in the configuration. -/
def Obligations.DecodedInstructionIsWellFormed : Prop :=
  ∀ (ext : Bool) (bs : List Byte) (d : Decoded), decode ext bs = .complete d → d.instr.wellFormed ext = true

/-- Every well-formed instruction, every operand at every value: its bytes decode to it (30_encoding.md R77, R107; the
`LOAD_EXT` bytes are general knowledge in the spec, PRESUMED, assumption log 9). -/
def Obligations.DecodeOfEncode : Prop :=
  ∀ (ext : Bool) (i : Instr), i.wellFormed ext = true →
    ∃ d, decode ext (encode i) = .complete d ∧ d.instr = i ∧ d.length = (encode i).length

/-- 30_encoding.md R77: the encoding formulas of the base kinds, and re-deriving the bytes from what they decode to; for
the `LOAD_EXT` bytes too, which are general knowledge in the spec (PRESUMED, assumption log 9). -/
def Obligations.EncodeOfDecode : Prop :=
  (∀ dst src : Reg8,
    encode (Kind.loadRegisterFromRegister dst src).instr =
      [0x40#8 ||| (dst.code.setWidth 8 <<< 3) ||| src.code.setWidth 8] ∧
    encode (Kind.loadRegisterFromMemory dst).instr = [0x40#8 ||| (dst.code.setWidth 8 <<< 3) ||| 0x06#8] ∧
    encode (Kind.loadMemoryFromRegister src).instr = [0x40#8 ||| (0x06#8 <<< 3) ||| src.code.setWidth 8]) ∧
  ∀ (ext : Bool) (bs : List Byte) (d : Decoded), decode ext bs = .complete d →
    encode d.instr = bs ∧
    (d.header.setWidth 8 <<< 6) ||| (d.first.setWidth 8 <<< 3) ||| d.second.setWidth 8 = d.opcode

/-- 95_test_vectors.md: words of L2-3, L2-4 (0x41) and L2-7 (36 AB, E0 80, 22), written out from the spec's encodings,
and the counts of L2-3 over all 256 single bytes. The `LOAD_EXT` words are general knowledge in the spec (PRESUMED,
assumption log 9). -/
def Obligations.DecodeSanityWords : Prop :=
  decodesTo false [0x41#8] .ldBC 1 ∧ decodesTo false [0x7E#8] .ldAAtHL 2 ∧ decodesTo false [0x70#8] .ldAtHLB 2 ∧
  decodesTo true [0x3E#8, 0x12#8] (.ldAImm 0x12#8) 2 ∧ decodesTo true [0x36#8, 0xAB#8] (.ldAtHLImm 0xAB#8) 3 ∧
  decodesTo true [0xFA#8, 0x34#8, 0x12#8] (.ldAAtAbs 0x1234#16) 4 ∧
  decodesTo true [0xE0#8, 0x80#8] (.ldhAtImmA 0x80#8) 3 ∧ decodesTo true [0x22#8] .ldAtHLIncA 2 ∧
  decode true [0xFA#8] = .needMoreBytes 2 ∧ decode true [0xFA#8, 0x34#8] = .needMoreBytes 1 ∧
  decode false [0x76#8, 0x00#8] = .error .invalidOpcode ∧ decode false [0xCB#8] = .error .invalidOpcode ∧
  decode true [0x3E#8, 0x01#8, 0x02#8] = .error (.wrongOpcodeSize (-1)) ∧
  (opcodeCount false DecodeOutcome.isComplete = 63 ∧ opcodeCount false DecodeOutcome.isInvalidOpcode = 193) ∧
  (opcodeCount true DecodeOutcome.isComplete = 73 ∧ opcodeCount true DecodeOutcome.isNeedMoreBytes = 12 ∧
    opcodeCount true DecodeOutcome.isInvalidOpcode = 171)

/-! ### The base loads -/

/-- 41_load_core.md R100. Covers the 49 constructors `ldBB` to `ldAA` of LD d, s. -/
def Obligations.LoadRegisterFromRegisterCopies : Prop :=
  ∀ (dst src : Reg8) (s : State),
    (∀ ext, decodesTo ext [0x40#8 ||| (dst.code.setWidth 8 <<< 3) ||| src.code.setWidth 8]
      (Kind.loadRegisterFromRegister dst src).instr 1) ∧
    executesTo (Kind.loadRegisterFromRegister dst src).instr s [dst.id] []
      (fun t => t.regs.read dst.id = s.regs.read src.id ∧ t.regs.read src.id = s.regs.read src.id ∧
        (dst = src → t = s) ∧
        (dst = .h → t.regs.read .hl = (s.regs.read src.id <<< 8) ||| s.regs.l.setWidth 16) ∧
        (dst = .l → t.regs.read .hl = (s.regs.h.setWidth 16 <<< 8) ||| s.regs.read src.id))

/-- 41_load_core.md R103, which the spec derives from R100. Covers `ldBB`, `ldCC`, `ldDD`, `ldEE`, `ldHH`, `ldLL`,
`ldAA`, alone and as a step; the field `result` is the model's place for the output (DESIGN CHOICE, assumption log 5). -/
def Obligations.SameRegisterLoadChangesOnlyPc : Prop :=
  ∀ (op : Byte) (i : Instr) (s : State),
    (op, i) ∈ [(0x40#8, Instr.ldBB), (0x49#8, .ldCC), (0x52#8, .ldDD), (0x5B#8, .ldEE), (0x64#8, .ldHH),
      (0x6D#8, .ldLL), (0x7F#8, .ldAA)] →
    exec i s = .next s ∧
    (canStep s → s.mem.read s.regs.pc.toNat = .ok op →
      step s = .next { s with regs := { s.regs with pc := s.regs.pc + 1#16 }, result := some (.ok 1 1) })

/-- 41_load_core.md R101 and, derived from it in the spec, R104. Covers `ldBAtHL`, `ldCAtHL`, `ldDAtHL`, `ldEAtHL`,
`ldHAtHL`, `ldLAtHL`, `ldAAtHL`. -/
def Obligations.LoadRegisterFromMemoryReadsByteAtHL : Prop :=
  ∀ (dst : Reg8) (s : State),
    (∀ ext, decodesTo ext [0x40#8 ||| (dst.code.setWidth 8 <<< 3) ||| 0x06#8]
      (Kind.loadRegisterFromMemory dst).instr 2) ∧
    ∃ b, s.mem.read (s.regs.read .hl).toNat = .ok b ∧
      executesTo (Kind.loadRegisterFromMemory dst).instr s [dst.id] []
        (fun t => t.regs.read dst.id = b.setWidth 16 ∧
          (dst = .h → t.regs.read .hl = (b.setWidth 16 <<< 8) ||| s.regs.l.setWidth 16) ∧
          (dst = .l → t.regs.read .hl = (s.regs.h.setWidth 16 <<< 8) ||| b.setWidth 16))

/-- 41_load_core.md R102 and, derived from it in the spec, R105. Covers `ldAtHLB`, `ldAtHLC`, `ldAtHLD`, `ldAtHLE`,
`ldAtHLH`, `ldAtHLL`, `ldAtHLA`. -/
def Obligations.LoadMemoryFromRegisterStoresByteAtHL : Prop :=
  ∀ (src : Reg8) (s : State), s.mem.wf = true →
    (∀ ext, decodesTo ext [0x70#8 ||| src.code.setWidth 8] (Kind.loadMemoryFromRegister src).instr 2) ∧
    executesTo (Kind.loadMemoryFromRegister src).instr s [] [(s.regs.read .hl).toNat]
      (fun t => t.mem.read (s.regs.read .hl).toNat = .ok ((s.regs.read src.id).setWidth 8) ∧
        (src = .h → t.mem.read (s.regs.read .hl).toNat = .ok s.regs.h) ∧
        (src = .l → t.mem.read (s.regs.read .hl).toNat = .ok s.regs.l))

/-! ### The `LOAD_EXT` loads: encoding, effect and cost are general knowledge in the spec (PRESUMED, assumption log 9) -/

/-- 42_load_extension.md R108, LD d, n8 (PRESUMED, assumption log 9). Covers `ldBImm`, `ldCImm`, `ldDImm`, `ldEImm`,
`ldHImm`, `ldLImm`, `ldAImm`. -/
def Obligations.LoadRegisterFromImmediateSetsRegister : Prop :=
  ∀ (dst : Reg8) (n : Byte) (s : State),
    decodesTo true [0x06#8 ||| (dst.code.setWidth 8 <<< 3), n] (Kind.loadRegisterFromImmediate dst n).instr 2 ∧
    executesTo (Kind.loadRegisterFromImmediate dst n).instr s [dst.id] []
      (fun t => t.regs.read dst.id = n.setWidth 16)

/-- 42_load_extension.md R109, LD (HL), n8 (PRESUMED, assumption log 9). Covers `ldAtHLImm`. -/
def Obligations.LoadMemoryFromImmediateStoresByteAtHL : Prop :=
  ∀ (n : Byte) (s : State), s.mem.wf = true →
    decodesTo true [0x36#8, n] (.ldAtHLImm n) 3 ∧
    executesTo (.ldAtHLImm n) s [] [(s.regs.read .hl).toNat]
      (fun t => t.mem.read (s.regs.read .hl).toNat = .ok n)

/-- 42_load_extension.md R110 and R111 (PRESUMED, assumption log 9). Covers `ldAAtBC`, `ldAAtDE`. -/
def Obligations.LoadAReadsByteAtBCOrDE : Prop :=
  ∀ s : State,
    (decodesTo true [0x0A#8] .ldAAtBC 2 ∧ ∃ b, s.mem.read (s.regs.read .bc).toNat = .ok b ∧
      executesTo .ldAAtBC s [.a] [] (fun t => t.regs.read .a = b.setWidth 16)) ∧
    (decodesTo true [0x1A#8] .ldAAtDE 2 ∧ ∃ b, s.mem.read (s.regs.read .de).toNat = .ok b ∧
      executesTo .ldAAtDE s [.a] [] (fun t => t.regs.read .a = b.setWidth 16))

/-- 42_load_extension.md R112 and R113 (PRESUMED, assumption log 9). Covers `ldAtBCA`, `ldAtDEA`. -/
def Obligations.StoreAWritesByteAtBCOrDE : Prop :=
  ∀ s : State, s.mem.wf = true →
    (decodesTo true [0x02#8] .ldAtBCA 2 ∧
      executesTo .ldAtBCA s [] [(s.regs.read .bc).toNat]
        (fun t => t.mem.read (s.regs.read .bc).toNat = .ok s.regs.a)) ∧
    (decodesTo true [0x12#8] .ldAtDEA 2 ∧
      executesTo .ldAtDEA s [] [(s.regs.read .de).toNat]
        (fun t => t.mem.read (s.regs.read .de).toNat = .ok s.regs.a))

/-- 42_load_extension.md R114, LD A, (n16) (PRESUMED, assumption log 9), low address byte first (PRESUMED, assumption
log 12). Covers `ldAAtAbs`. -/
def Obligations.LoadAReadsByteAtAbsoluteAddress : Prop :=
  ∀ (lo hi : Byte) (s : State),
    decodesTo true [0xFA#8, lo, hi] (.ldAAtAbs ((hi.setWidth 16 <<< 8) ||| lo.setWidth 16)) 4 ∧
    ∃ b, s.mem.read ((hi.setWidth 16 <<< 8) ||| lo.setWidth 16 : Word).toNat = .ok b ∧
      executesTo (.ldAAtAbs ((hi.setWidth 16 <<< 8) ||| lo.setWidth 16)) s [.a] []
        (fun t => t.regs.read .a = b.setWidth 16)

/-- 42_load_extension.md R115, LD (n16), A (PRESUMED, assumption log 9), low address byte first (PRESUMED, assumption
log 12). Covers `ldAtAbsA`. -/
def Obligations.StoreAWritesByteAtAbsoluteAddress : Prop :=
  ∀ (lo hi : Byte) (s : State), s.mem.wf = true →
    decodesTo true [0xEA#8, lo, hi] (.ldAtAbsA ((hi.setWidth 16 <<< 8) ||| lo.setWidth 16)) 4 ∧
    executesTo (.ldAtAbsA ((hi.setWidth 16 <<< 8) ||| lo.setWidth 16)) s []
      [((hi.setWidth 16 <<< 8) ||| lo.setWidth 16 : Word).toNat]
      (fun t => t.mem.read ((hi.setWidth 16 <<< 8) ||| lo.setWidth 16 : Word).toNat = .ok s.regs.a)

/-- 42_load_extension.md R116 and R118 (PRESUMED, assumption log 9). Covers `ldhAAtC`, `ldhAAtImm`. -/
def Obligations.LoadAReadsByteInHighPage : Prop :=
  ∀ (n : Byte) (s : State),
    (decodesTo true [0xF2#8] .ldhAAtC 2 ∧ ∃ b, s.mem.read (0xFF00 + s.regs.c.toNat) = .ok b ∧
      executesTo .ldhAAtC s [.a] [] (fun t => t.regs.read .a = b.setWidth 16)) ∧
    (decodesTo true [0xF0#8, n] (.ldhAAtImm n) 3 ∧ ∃ b, s.mem.read (0xFF00 + n.toNat) = .ok b ∧
      executesTo (.ldhAAtImm n) s [.a] [] (fun t => t.regs.read .a = b.setWidth 16))

/-- 42_load_extension.md R117 and R119 (PRESUMED, assumption log 9). Covers `ldhAtCA`, `ldhAtImmA`. -/
def Obligations.StoreAWritesByteInHighPage : Prop :=
  ∀ (n : Byte) (s : State), s.mem.wf = true →
    (decodesTo true [0xE2#8] .ldhAtCA 2 ∧
      executesTo .ldhAtCA s [] [0xFF00 + s.regs.c.toNat]
        (fun t => t.mem.read (0xFF00 + s.regs.c.toNat) = .ok s.regs.a)) ∧
    (decodesTo true [0xE0#8, n] (.ldhAtImmA n) 3 ∧
      executesTo (.ldhAtImmA n) s [] [0xFF00 + n.toNat]
        (fun t => t.mem.read (0xFF00 + n.toNat) = .ok s.regs.a))

/-- 42_load_extension.md R120 and R121 (PRESUMED, assumption log 9). Covers `ldAAtHLInc`, `ldAAtHLDec`; HL is updated
too, and wraps mod 0x10000 (PRESUMED, assumption log 13, decision D15). -/
def Obligations.LoadAThenMovesHL : Prop :=
  ∀ s : State, ∃ b, s.mem.read (s.regs.read .hl).toNat = .ok b ∧
    decodesTo true [0x2A#8] .ldAAtHLInc 2 ∧
    executesTo .ldAAtHLInc s [.a, .h, .l] []
      (fun t => t.regs.read .a = b.setWidth 16 ∧
        (t.regs.read .hl).toNat = ((s.regs.read .hl).toNat + 1) % 0x10000) ∧
    decodesTo true [0x3A#8] .ldAAtHLDec 2 ∧
    executesTo .ldAAtHLDec s [.a, .h, .l] []
      (fun t => t.regs.read .a = b.setWidth 16 ∧
        (t.regs.read .hl).toNat = ((s.regs.read .hl).toNat + 0xFFFF) % 0x10000)

/-- 42_load_extension.md R122 and R123 (PRESUMED, assumption log 9). Covers `ldAtHLIncA`, `ldAtHLDecA`; HL is updated
too, and wraps mod 0x10000 (PRESUMED, assumption log 13, decision D15). -/
def Obligations.StoreAThenMovesHL : Prop :=
  ∀ s : State, s.mem.wf = true →
    decodesTo true [0x22#8] .ldAtHLIncA 2 ∧
    executesTo .ldAtHLIncA s [.h, .l] [(s.regs.read .hl).toNat]
      (fun t => t.mem.read (s.regs.read .hl).toNat = .ok s.regs.a ∧
        (t.regs.read .hl).toNat = ((s.regs.read .hl).toNat + 1) % 0x10000) ∧
    decodesTo true [0x32#8] .ldAtHLDecA 2 ∧
    executesTo .ldAtHLDecA s [.h, .l] [(s.regs.read .hl).toNat]
      (fun t => t.mem.read (s.regs.read .hl).toNat = .ok s.regs.a ∧
        (t.regs.read .hl).toNat = ((s.regs.read .hl).toNat + 0xFFFF) % 0x10000)

/-! ### All instructions -/

/-- Every instruction completes in every state (40_fetch_execute.md R86, R87; 20_memory.md R45), in a configuration or
not: no register contents, no memory contents and no mode stop one. -/
def Obligations.EveryInstructionCompletes : Prop :=
  ∀ (i : Instr) (s : State), ∃ t, exec i s = .next t

/-- 10_state.md section 5, 20_memory.md section 3: the frame of every instruction, by its kind. -/
def Obligations.EveryInstructionFrame : Prop :=
  ∀ (i : Instr) (s t : State), s.mem.wf = true → exec i s = .next t →
    cellsKeptBut (writtenCells i.kind) s t ∧ bytesKeptBut (storeAddress i.kind s).toList s t ∧ restKept s t

/-- 40_fetch_execute.md R88 and 10_state.md R34, with 41_load_core.md R106 and 10_state.md R28, which the spec derives:
no instruction reads or writes F, SP or PC: it leaves them, and it does the same whatever they hold. -/
def Obligations.NoInstructionReadsOrWritesFSpPc : Prop :=
  ∀ (i : Instr) (s t : State) (f : Byte) (sp pc : Word), exec i s = .next t →
    t.regs.f = s.regs.f ∧ t.regs.sp = s.regs.sp ∧ t.regs.pc = s.regs.pc ∧
    exec i { s with regs := { s.regs with f := f, sp := sp, pc := pc } } =
      .next { t with regs := { t.regs with f := f, sp := sp, pc := pc } }

/-! ### The Fetch-Execute Cycle and the composed step -/

/-- 40_fetch_execute.md R85, R94: a step runs the instruction its bytes at PC decode to, then moves PC past its bytes
and gives out its cost and length; an error of the instruction is recorded instead. The composed step is the spec's own
decision; the wrap of PC, the error step and the field `result` are assumption logs 10, 6 and 5. -/
def Obligations.StepRunsDecodedInstruction : Prop :=
  ∀ (s : State) (bs : List Byte) (d : Decoded), canStep s →
    s.mem.readMany s.regs.pc.toNat bs.length = .ok bs → decode s.loadExt bs = .complete d →
    (∀ t, exec d.instr s = .next t →
      step s = .next { t with
        regs := { t.regs with pc := t.regs.pc + BitVec.ofNat 16 d.length }
        result := some (.ok d.cycles d.length) }) ∧
    (∀ k, exec d.instr s = .fault (.raised k) → step s = .next (failedWith k s)) ∧
    (∀ r, exec d.instr s = .refused r → step s = .refused r)

/-- 40_fetch_execute.md R94, all of it, over what `run_one` returns. R94 is the spec's own decision; the wrap of PC, the
error step as a next state and the field `result` are assumption logs 10 (DEDUCED), 6 (DEDUCED) and 5 (DESIGN CHOICE). -/
def Obligations.ComposedStepFollowsRunOne : Prop :=
  ∀ s : State,
    (∀ k, s.fault = some k → ∀ t, step s ≠ .next t) ∧
    (s.fault = none → s.endPc = some s.regs.pc → ∀ t, step s ≠ .next t) ∧
    (canStep s → ∀ c len t, runOne s = .ok c len t →
      ∃ u, step s = .next u ∧ u.regs.pc.toNat = (s.regs.pc.toNat + len) % 0x10000 ∧ u.fault = none ∧
        u.result = some (.ok c len) ∧ u.mem = t.mem ∧ cellsKeptBut [.pc] t u ∧ u.phase = t.phase ∧
        u.loadExt = t.loadExt ∧ u.endPc = t.endPc) ∧
    (canStep s → ∀ k t, runOne s = .error k t →
      ∃ u, step s = .next u ∧ u = failedWith k t ∧ u.fault = some k ∧ u.regs.pc = s.regs.pc)

/-- 40_fetch_execute.md R97, which the spec derives: no instruction transfers control; PC moves on by the instruction's
length, mod 0x10000 (DEDUCED, assumption log 10); the length given out stands in `result` (assumption log 5). -/
def Obligations.NextPcIsSequential : Prop :=
  ∀ s t : State, stepsSafely s t →
    ∃ c len, t.result = some (.ok c len) ∧ 1 ≤ len ∧ len ≤ 3 ∧ (s.loadExt = false → len = 1) ∧
      t.regs.pc.toNat = (s.regs.pc.toNat + len) % 0x10000

/-- 60_exceptions.md R126, 40_fetch_execute.md R94: an unclassified byte at PC. The error step as a next state is
assumption log 6 (DEDUCED). -/
def Obligations.UnclassifiedByteAtPcFaults : Prop :=
  ∀ (s : State) (op : Byte), canStep s → s.mem.read s.regs.pc.toNat = .ok op →
    decode s.loadExt [op] = .error .invalidOpcode → step s = .next (failedWith .invalidOpcode s)

/-- 42_load_extension.md R124: a trailing-byte fetch past 0xFFFF raises OutOfBounds(0x10000) and changes no state. That
it does not wrap is assumption log 11 (DEDUCED), the error step assumption log 6 (DEDUCED). -/
def Obligations.TrailingFetchPastTopFaults : Prop :=
  ∀ (s : State) (op : Byte) (n : Nat), canStep s → s.mem.read s.regs.pc.toNat = .ok op →
    decode s.loadExt [op] = .needMoreBytes n → 0x10000 ≤ s.regs.pc.toNat + n →
    step s = .next (failedWith (.outOfBounds 0x10000) s)

/-- 60_exceptions.md R132, which the spec derives from R126-R131: the only errors a call can return, and where. The fetch
that does not wrap is assumption log 11 (DEDUCED), the kinds no call returns assumption log 23 (DEDUCED). -/
def Obligations.OnlyReachableErrors : Prop :=
  ∀ (s t : State) (k : ErrorKind), runOne s = .error k t →
    k = .invalidOpcode ∨
    (s.loadExt = true ∧ k = .outOfBounds 0x10000 ∧ (s.regs.pc = 0xFFFE#16 ∨ s.regs.pc = 0xFFFF#16) ∧
      ∃ op n, s.mem.read s.regs.pc.toNat = .ok op ∧ decode true [op] = .needMoreBytes n)

/-- 60_exceptions.md R133: a failed call leaves the Register File and the Address Space exactly as they were, and a
failed step does too and does not advance PC. R133 is derived in the spec; the error step as a next state is assumption
log 6 (DEDUCED). -/
def Obligations.FailureLeavesRegistersAndMemory : Prop :=
  (∀ (s t : State) (k : ErrorKind), runOne s = .error k t → t = s) ∧
  (∀ (s t : State) (k : ErrorKind), step s = .next t → t.fault = some k → t = failedWith k s)

/-- 40_fetch_execute.md R99 (the spec's decision D7): a faulted machine has no step and has not ended normally, and no
step clears a fault. The fault `stuck` is the model's form of having no step (DEDUCED, assumption log 6). -/
def Obligations.FaultedMachineIsStuck : Prop :=
  ∀ s : State,
    (∀ k, s.fault = some k → step s = .fault (.stuck k) ∧ ¬ endsNormally s) ∧
    (∀ t, step s = .next t → s.fault = none)

/-- 40_fetch_execute.md R96, the spec's own definition: when a run ends, and how. The refusal `runEnded` and the fault
`stuck` are the model's forms of having no step (DESIGN CHOICE, assumption log 7; DEDUCED, assumption log 6). -/
def Obligations.RunEndsNormallyOrFaulted : Prop :=
  ∀ s : State, s.phase = .ready →
    ((∀ t, step s ≠ .next t) ↔ endsNormally s ∨ endsFaulted s) ∧
    (step s = .refused .runEnded ↔ endsNormally s) ∧
    (endsFaulted s ↔ ∃ k, step s = .fault (.stuck k)) ∧
    (s.endPc = none → ¬ endsNormally s)

/-- 60_exceptions.md R142: a call always completes or fails; nothing waits. -/
def Obligations.CallCompletesOrFails : Prop :=
  ∀ s : State, s.phase = .ready →
    (∃ c len t, runOne s = .ok c len t ∧ 1 ≤ c ∧ c ≤ 4) ∨ (∃ k, runOne s = .error k s)

/-- 40_fetch_execute.md R89, 70_reset_and_hazards.md R154 and R155: the cost a completed step gives out, in the field
`result` (assumption log 5); the costs of the `LOAD_EXT` kinds are PRESUMED (assumption log 9). -/
def Obligations.StepCostIsOfTheKind : Prop :=
  ∀ s t : State, stepsSafely s t →
    ∃ (op : Byte) (d : Decoded) (bs : List Byte), s.mem.read s.regs.pc.toNat = .ok op ∧
      decode s.loadExt (op :: bs) = .complete d ∧ t.result = some (.ok d.cycles d.length) ∧
      d.cycles = match d.instr.kind with
        | .loadRegisterFromRegister _ _ => 1
        | .loadMemoryFromImmediate _ | .loadAFromHighImmediate _ | .loadHighImmediateFromA _ => 3
        | .loadAFromAbsolute _ | .loadAbsoluteFromA _ => 4
        | .loadRegisterFromMemory _ | .loadMemoryFromRegister _ | .loadRegisterFromImmediate _ _ | .loadAFromBC
        | .loadAFromDE | .loadBCFromA | .loadDEFromA | .loadAFromHighC | .loadHighCFromA | .loadAFromHLIncrement
        | .loadAFromHLDecrement | .loadHLIncrementFromA | .loadHLDecrementFromA => 2

/-- 10_state.md R28 and R34, 00_scope.md R13: no step writes F, SP or a parameter. -/
def Obligations.StepKeepsFSpAndParameters : Prop :=
  ∀ s t : State, step s = .next t →
    t.regs.f = s.regs.f ∧ t.regs.sp = s.regs.sp ∧ t.loadExt = s.loadExt ∧ t.endPc = s.endPc ∧ t.phase = .ready

/-- 20_memory.md R59: a store to the next byte of the program is what the next step fetches, also across the wrap of
PC from 0xFFFF to 0 (assumption log 10). R59 is derived in the spec; canonical memory is assumption log 4. -/
def Obligations.StoredByteIsNextFetch : Prop :=
  ∀ (s : State) (src : Reg8), canStep s → s.mem.wf = true →
    s.mem.read s.regs.pc.toNat = .ok (0x70#8 ||| src.code.setWidth 8) →
    s.regs.read .hl = s.regs.pc + 1#16 →
    ∃ t, step s = .next t ∧ t.fault = none ∧ t.regs.pc = s.regs.read .hl ∧
      t.mem.read t.regs.pc.toNat = .ok ((s.regs.read src.id).setWidth 8)

/-! ### Launch, host, invariant -/

/-- 70_reset_and_hazards.md R144, R145, R146, R148, R149 (decisions of the spec): a launch takes every register and byte
from its parameters, is *ready* without a fault, and is refused if F[3:0] is not zero. The canonical form of `initMem` is
the model's (DESIGN CHOICE, assumption log 19). -/
def Obligations.LaunchTakesItsParameters : Prop :=
  ∀ p : Launch,
    (p.initRegs.f &&& 0x0F#8 ≠ 0#8 → State.launch p = .refused .launchFlagsNotZero) ∧
    (p.initRegs.f &&& 0x0F#8 = 0#8 → p.initMem.wf = true →
      ∃ s, State.launch p = .next s ∧ s.regs = p.initRegs ∧ s.mem = p.initMem ∧ s.phase = .ready ∧ s.fault = none ∧
        s.loadExt = p.loadExt ∧ s.endPc = p.endPc)

/-- 20_memory.md R56 (decision D21): nothing acts during a call. The reply and the refusal `callInProgress` are the
model's forms (DESIGN CHOICE, assumption log 16). -/
def Obligations.NothingActsDuringACall : Prop :=
  ∀ (s : State) (act : HostAction), s.phase = .needMoreBytes →
    hostAct act s = (.callInProgress, s) ∧ runOne s = .refused .callInProgress

/-- The invariant at reset: F[3:0] = 0 and *ready* (70_reset_and_hazards.md R145, R149). -/
def Obligations.ResetMeetsInvariant : Prop :=
  Inv State.reset ∧ State.reset.fault = none ∧ State.reset.loadExt = false

/-- Every step keeps the invariant: F[3:0] = 0 (10_state.md R20), canonical memory (DESIGN CHOICE, assumption log 4),
*ready* (R36; assumption log 16). -/
def Obligations.StepKeepsInvariant : Prop :=
  ∀ s t : State, Inv s → step s = .next t → Inv t

/-- Every host access keeps the invariant (canonical memory is assumption log 4) and everything outside the Register
File and the Address Space (60_exceptions.md R141); it moves PC only by writing it (40_fetch_execute.md R98, decision
D21). -/
def Obligations.HostAccessKeepsInvariant : Prop :=
  ∀ (s : State) (act : HostAction), Inv s →
    Inv (hostAct act s).2 ∧ restKept s (hostAct act s).2 ∧
    ((hostAct act s).2.regs.pc ≠ s.regs.pc → ∃ v, act = .writeReg .pc v)

/-- 70_reset_and_hazards.md R145 and 10_state.md R20 (decision D11): F[3:0] = 0 in every reachable state,
every read returns it zero, and a launch that breaks this is refused. Every reachable state meets the invariant, which is the model's own: canonical
memory is assumption log 4, the phase 16, the mask at the write 8. -/
def Obligations.FLowNibbleIsZeroWhenReachable : Prop :=
  (∀ s : State, Reachable s →
    s.regs.f &&& 0x0F#8 = 0#8 ∧ s.regs.read .f &&& 0x000F#16 = 0#16 ∧ s.regs.read .af &&& 0x000F#16 = 0#16 ∧ Inv s) ∧
  ∀ p : Launch, p.initRegs.f &&& 0x0F#8 ≠ 0#8 → ∀ s, State.launch p ≠ .next s

/-- 60_exceptions.md R141 and 40_fetch_execute.md R98 (decision D21): what a host access between calls replies and does:
any of the 14 ids is read and written as 10_state.md R21-R26 say, any byte as 20_memory.md R41-R44 say; a failing
multi-byte write keeps its earlier bytes (R44), and an address past the top is OutOfBounds. -/
def Obligations.HostAccessRepliesBetweenCalls : Prop :=
  ∀ s : State, s.phase = .ready →
    (∀ id, hostAct (.readReg id) s = (.value (s.regs.read id), s)) ∧
    (∀ id v, hostAct (.writeReg id v) s = (.done, { s with regs := s.regs.write id v })) ∧
    (∀ a n bs, s.mem.readMany a n = .ok bs → hostAct (.readMem a n) s = (.bytes bs, s)) ∧
    (∀ a n k, s.mem.readMany a n = .error k → hostAct (.readMem a n) s = (.error k, s)) ∧
    (∀ a bs m, s.mem.writeMany a bs = (m, none) → hostAct (.writeMem a bs) s = (.done, { s with mem := m })) ∧
    (∀ a bs m k, s.mem.writeMany a bs = (m, some k) → hostAct (.writeMem a bs) s = (.error k, { s with mem := m })) ∧
    (∀ a b, 0x10000 ≤ a →
      hostAct (.readMem a 1) s = (.error (.outOfBounds a), s) ∧
      hostAct (.writeMem a [b]) s = (.error (.outOfBounds a), s))

/-- 70_reset_and_hazards.md R147, 20_memory.md R59, 40_fetch_execute.md R98: the host sets PC and writes an instruction's
bytes there between calls, and the next step fetches and runs exactly it. The composed step and its output are
assumption logs 5, 6 and 10, the canonical memory 4, the `LOAD_EXT` bytes 9. -/
def Obligations.HostPlacedInstructionRuns : Prop :=
  ∀ (s : State) (p : Word) (i : Instr), s.fault = none → s.phase = .ready → s.endPc ≠ some p → s.mem.wf = true →
    i.wellFormed s.loadExt = true → p.toNat + (encode i).length ≤ 0x10000 →
    ∃ u t c, hostAct (.writeMem p.toNat (encode i)) (hostAct (.writeReg .pc p) s).2 = (.done, u) ∧
      u.regs = { s.regs with pc := p } ∧ decodesTo s.loadExt (encode i) i c ∧ exec i u = .next t ∧
      step u = .next { t with
        regs := { t.regs with pc := p + BitVec.ofNat 16 (encode i).length }
        result := some (.ok c (encode i).length) }
end

