-- ==== Sys2Proof/Laws/State.lean ====
section
/-! SUPPORT. One lemma per field of State per update of Machine/Ops.lean. -/

namespace Sys2Proof.Machine

variable (s : State)

@[simp] theorem State.writeReg_regs (id : RegId) (v : Word) : (s.writeReg id v).regs = s.regs.write id v := rfl
@[simp] theorem State.writeReg_mem (id : RegId) (v : Word) : (s.writeReg id v).mem = s.mem := rfl
@[simp] theorem State.writeReg_phase (id : RegId) (v : Word) : (s.writeReg id v).phase = s.phase := rfl
@[simp] theorem State.writeReg_fault (id : RegId) (v : Word) : (s.writeReg id v).fault = s.fault := rfl
@[simp] theorem State.writeReg_result (id : RegId) (v : Word) : (s.writeReg id v).result = s.result := rfl
@[simp] theorem State.writeReg_loadExt (id : RegId) (v : Word) : (s.writeReg id v).loadExt = s.loadExt := rfl
@[simp] theorem State.writeReg_endPc (id : RegId) (v : Word) : (s.writeReg id v).endPc = s.endPc := rfl

@[simp] theorem State.setMem_regs (m : Memory) : (s.setMem m).regs = s.regs := rfl
@[simp] theorem State.setMem_mem (m : Memory) : (s.setMem m).mem = m := rfl
@[simp] theorem State.setMem_phase (m : Memory) : (s.setMem m).phase = s.phase := rfl
@[simp] theorem State.setMem_fault (m : Memory) : (s.setMem m).fault = s.fault := rfl
@[simp] theorem State.setMem_result (m : Memory) : (s.setMem m).result = s.result := rfl
@[simp] theorem State.setMem_loadExt (m : Memory) : (s.setMem m).loadExt = s.loadExt := rfl
@[simp] theorem State.setMem_endPc (m : Memory) : (s.setMem m).endPc = s.endPc := rfl

@[simp] theorem State.setPhase_regs (p : FetchPhase) : (s.setPhase p).regs = s.regs := rfl
@[simp] theorem State.setPhase_mem (p : FetchPhase) : (s.setPhase p).mem = s.mem := rfl
@[simp] theorem State.setPhase_phase (p : FetchPhase) : (s.setPhase p).phase = p := rfl
@[simp] theorem State.setPhase_fault (p : FetchPhase) : (s.setPhase p).fault = s.fault := rfl
@[simp] theorem State.setPhase_result (p : FetchPhase) : (s.setPhase p).result = s.result := rfl
@[simp] theorem State.setPhase_loadExt (p : FetchPhase) : (s.setPhase p).loadExt = s.loadExt := rfl
@[simp] theorem State.setPhase_endPc (p : FetchPhase) : (s.setPhase p).endPc = s.endPc := rfl

@[simp] theorem State.setResult_regs (r : CallResult) : (s.setResult r).regs = s.regs := rfl
@[simp] theorem State.setResult_mem (r : CallResult) : (s.setResult r).mem = s.mem := rfl
@[simp] theorem State.setResult_phase (r : CallResult) : (s.setResult r).phase = s.phase := rfl
@[simp] theorem State.setResult_fault (r : CallResult) : (s.setResult r).fault = s.fault := rfl
@[simp] theorem State.setResult_result (r : CallResult) : (s.setResult r).result = some r := rfl
@[simp] theorem State.setResult_loadExt (r : CallResult) : (s.setResult r).loadExt = s.loadExt := rfl
@[simp] theorem State.setResult_endPc (r : CallResult) : (s.setResult r).endPc = s.endPc := rfl

@[simp] theorem State.raise_regs (k : ErrorKind) : (s.raise k).regs = s.regs := rfl
@[simp] theorem State.raise_mem (k : ErrorKind) : (s.raise k).mem = s.mem := rfl
@[simp] theorem State.raise_phase (k : ErrorKind) : (s.raise k).phase = s.phase := rfl
@[simp] theorem State.raise_fault (k : ErrorKind) : (s.raise k).fault = some k := rfl
@[simp] theorem State.raise_result (k : ErrorKind) : (s.raise k).result = some (.error k) := rfl
@[simp] theorem State.raise_loadExt (k : ErrorKind) : (s.raise k).loadExt = s.loadExt := rfl
@[simp] theorem State.raise_endPc (k : ErrorKind) : (s.raise k).endPc = s.endPc := rfl

@[simp] theorem State.advancePc_regs (n : Nat) : (s.advancePc n).regs = s.regs.write .pc (s.regs.read .pc + BitVec.ofNat 16 n) := rfl
@[simp] theorem State.advancePc_mem (n : Nat) : (s.advancePc n).mem = s.mem := rfl
@[simp] theorem State.advancePc_phase (n : Nat) : (s.advancePc n).phase = s.phase := rfl
@[simp] theorem State.advancePc_fault (n : Nat) : (s.advancePc n).fault = s.fault := rfl
@[simp] theorem State.advancePc_result (n : Nat) : (s.advancePc n).result = s.result := rfl
@[simp] theorem State.advancePc_loadExt (n : Nat) : (s.advancePc n).loadExt = s.loadExt := rfl
@[simp] theorem State.advancePc_endPc (n : Nat) : (s.advancePc n).endPc = s.endPc := rfl

end Sys2Proof.Machine
end

