-- ==== Sys2Proof/Laws/RegFile.lean ====
section
/-! SUPPORT. The Register File's byte operations, and the F invariant over writes. -/

namespace Sys2Proof.Machine

/-- A byte survives the way through the 16-bit interface. -/
@[simp] theorem lowByte_zext16 (b : Byte) : lowByte (zext16 b) = b := by
  apply BitVec.eq_of_getLsbD_eq
  intro i hi
  have : i < 16 := by omega
  simp [lowByte, zext16, hi, this]

/-- Zero extension loses nothing, so reads of a cell determine the cell. -/
@[simp] theorem zext16_inj (b c : Byte) : zext16 b = zext16 c ↔ b = c := by
  refine ⟨fun h => ?_, fun h => h ▸ rfl⟩
  simpa using congrArg lowByte h

@[simp] theorem lowByte_joinBytes (h l : Byte) : lowByte (joinBytes h l) = l := by
  apply BitVec.eq_of_getLsbD_eq
  intro i hi
  have : i < 16 := by omega
  simp [lowByte, joinBytes, hi, this]

@[simp] theorem highByte_joinBytes (h l : Byte) : highByte (joinBytes h l) = h := by
  apply BitVec.eq_of_getLsbD_eq
  intro i hi
  have : 8 + i < 16 := by omega
  simp [highByte, joinBytes, hi, this]

/-- A 16-bit value is its two bytes. -/
@[simp] theorem joinBytes_highByte_lowByte (v : Word) : joinBytes (highByte v) (lowByte v) = v := by
  apply BitVec.eq_of_getLsbD_eq
  intro i hi
  by_cases h : i < 8
  · simp [highByte, lowByte, joinBytes, h, hi]
  · have h' : i - 8 < 8 := by omega
    have h'' : 8 + (i - 8) = i := by omega
    simp [highByte, lowByte, joinBytes, h, h', h'', hi]

/-- A masked byte has a zero low nibble. -/
@[simp] theorem maskFlags_low (b : Byte) : maskFlags b &&& 0x0F#8 = 0#8 := by
  simp [maskFlags, BitVec.and_assoc]

/-- A write through any id keeps F[3:0] zero (10_state.md R24, R26). -/
theorem RegFile.flagsWf_write {rf : RegFile} (id : RegId) (v : Word) (h : rf.flagsWf = true) :
    (rf.write id v).flagsWf = true := by
  cases id <;> simp_all [RegFile.flagsWf, RegFile.write]

/-- A write to an id that is neither F nor AF leaves F. -/
theorem RegFile.f_write {rf : RegFile} {id : RegId} (v : Word) (h : id ≠ .f ∧ id ≠ .af) :
    (rf.write id v).f = rf.f := by
  cases id <;> simp_all [RegFile.write]

theorem RegFile.sp_write {rf : RegFile} {id : RegId} (v : Word) (h : id ≠ .sp) :
    (rf.write id v).sp = rf.sp := by
  cases id <;> simp_all [RegFile.write]

theorem RegFile.pc_write {rf : RegFile} {id : RegId} (v : Word) (h : id ≠ .pc) :
    (rf.write id v).pc = rf.pc := by
  cases id <;> simp_all [RegFile.write]

end Sys2Proof.Machine
end

