-- ==== Sys2Proof/Laws/Decode.lean ====
section
/-! SUPPORT. The decoder's parts: the fields of an opcode byte, the operand map and its inverse, what a class of an opcode
byte can be, and what one call of the decoder answers. -/

namespace Sys2Proof

@[simp] theorem operandOf_code (o : Operand) : operandOf o.code = o := by
  cases o with
  | register r => cases r <;> rfl
  | memoryViaHL => rfl

@[simp] theorem operandOf_reg8_code (r : Reg8) : operandOf r.code = .register r := operandOf_code (.register r)

@[simp] theorem code_operandOf (c : BitVec 3) : (operandOf c).code = c := by
  revert c; decide

theorem opByte_fields (op : Byte) : opByte (opHeader op) (opFirst op) (opSecond op) = op := by
  revert op; decide

@[simp] theorem opHeader_opByte (h : BitVec 2) (f s : BitVec 3) : opHeader (opByte h f s) = h := by
  revert h f s; decide

@[simp] theorem opFirst_opByte (h : BitVec 2) (f s : BitVec 3) : opFirst (opByte h f s) = f := by
  revert h f s; decide

@[simp] theorem opSecond_opByte (h : BitVec 2) (f s : BitVec 3) : opSecond (opByte h f s) = s := by
  revert h f s; decide

/-- An instruction is the one its kind stands for. -/
@[simp] theorem Instr.instr_kind (i : Instr) : i.kind.instr = i := by
  cases i <;> rfl

/-- A kind is that of the instruction it stands for. -/
@[simp] theorem Kind.kind_instr (k : Kind) : k.instr.kind = k := by
  cases k with
  | loadRegisterFromRegister dst src => cases dst <;> cases src <;> rfl
  | loadRegisterFromMemory dst => cases dst <;> rfl
  | loadMemoryFromRegister src => cases src <;> rfl
  | loadRegisterFromImmediate dst n => cases dst <;> rfl
  | _ => rfl

/-- A class has length 1, 2 or 3, and length 1 in the base configuration (30_encoding.md R62). -/
theorem classify_length {loadExt : Bool} {op : Byte} {cls : OpClass} (h : classify loadExt op = some cls) :
    1 ≤ cls.length ∧ cls.length ≤ Config.maxLength ∧ (loadExt = false → cls.length = 1) := by
  have all : ∀ (e : Bool) (o : Byte), ((classify e o).all fun c =>
      decide (1 ≤ c.length ∧ c.length ≤ Config.maxLength ∧ (e = false → c.length = 1))) = true := by decide
  have := all loadExt op
  rw [h] at this
  simpa only [Option.all_some, decide_eq_true_eq] using this

/-- What the decoder answers for an opcode byte of a class, by the number of bytes (30_encoding.md R72). -/
theorem decode_cons {loadExt : Bool} {op : Byte} {cls : OpClass} (h : classify loadExt op = some cls)
    (trailing : List Byte) : decode loadExt (op :: trailing) =
      if 1 + trailing.length < cls.length then .needMoreBytes (cls.length - (1 + trailing.length))
      else if cls.length < 1 + trailing.length then
        .error (.wrongOpcodeSize ((cls.length : Int) - ((1 + trailing.length : Nat) : Int)))
      else .complete (decodedRecord op trailing cls) := by
  simp only [decode, h]

/-- An unclassified opcode byte is refused whatever follows it (30_encoding.md R72). -/
theorem decode_unclassified {loadExt : Bool} {op : Byte} (h : classify loadExt op = none) (trailing : List Byte) :
    decode loadExt (op :: trailing) = .error .invalidOpcode := by
  simp only [decode, h]

/-- A classified opcode byte with exactly its trailing bytes decodes to its record. -/
theorem decode_whole {loadExt : Bool} {op : Byte} {cls : OpClass} (h : classify loadExt op = some cls)
    {trailing : List Byte} (hlen : 1 + trailing.length = cls.length) :
    decode loadExt (op :: trailing) = .complete (decodedRecord op trailing cls) := by
  simp [decode_cons h, hlen]

/-- What the decoder completes is a classified opcode byte with exactly its trailing bytes. -/
theorem decode_complete {loadExt : Bool} {bs : List Byte} {d : Decoded} (h : decode loadExt bs = .complete d) :
    ∃ op trailing cls, bs = op :: trailing ∧ classify loadExt op = some cls ∧
      1 + trailing.length = cls.length ∧ d = decodedRecord op trailing cls := by
  cases bs with
  | nil => simp [decode] at h
  | cons op trailing =>
    cases hc : classify loadExt op with
    | none => simp [decode_unclassified hc] at h
    | some cls =>
      rw [decode_cons hc] at h
      split at h
      · cases h
      · split at h
        · cases h
        · cases h
          exact ⟨op, trailing, cls, rfl, hc, by omega, rfl⟩

end Sys2Proof
end

