-- ==== Sys2Proof/Laws/Memory.lean ====
section
/-! SUPPORT. The Address Space: read after write, and that every memory operation keeps the canonical form. -/

namespace Sys2Proof.Machine

namespace Memory

theorem get_of_lt {m : Memory} {lo a : Nat} (h : wfFrom lo m = true) (ha : a < lo) : get m a = unlisted := by
  induction m generalizing lo with
  | nil => rfl
  | cons e m ih =>
    obtain ⟨k, v⟩ := e
    simp only [wfFrom, Bool.and_eq_true, decide_eq_true_eq] at h
    have hne : a ≠ k := by omega
    simp only [get, hne, ite_false]
    exact ih h.2 (by omega)

theorem wfFrom_mono {m : Memory} {lo lo' : Nat} (h : wfFrom lo m = true) (hle : lo' ≤ lo) : wfFrom lo' m = true := by
  cases m with
  | nil => rfl
  | cons e m =>
    obtain ⟨k, v⟩ := e
    simp only [wfFrom, Bool.and_eq_true, decide_eq_true_eq] at h ⊢
    exact ⟨⟨⟨by omega, h.1.1.2⟩, h.1.2⟩, h.2⟩

/-- A read after a write: the byte written there, and every other byte as it was. -/
theorem get_set {m : Memory} {lo : Nat} (h : wfFrom lo m = true) (a : Nat) (b : Byte) (x : Nat) :
    get (set m a b) x = if x = a then b else get m x := by
  induction m generalizing lo with
  | nil =>
    by_cases hb : b = unlisted <;> by_cases hx : x = a <;> simp [set, get, hb, hx]
  | cons e m ih =>
    obtain ⟨k, v⟩ := e
    simp only [wfFrom, Bool.and_eq_true, decide_eq_true_eq] at h
    have hk : ∀ y, y ≤ k → get m y = unlisted := fun y hy => get_of_lt h.2 (by omega)
    simp only [set]
    split
    · rename_i hak
      split
      · by_cases hx : x = a
        · have : x ≠ k := by omega
          simp_all [get]
          exact hk a (by omega)
        · simp [hx]
      · by_cases hx : x = a <;> simp [get, hx]
    · split
      · rename_i hak
        subst hak
        split
        · by_cases hx : x = a <;> simp_all [get]
        · by_cases hx : x = a <;> simp [get, hx]
      · rename_i hak
        simp only [get]
        by_cases hx : x = k
        · have : x ≠ a := by omega
          simp [hx]
          omega
        · simp only [hx, ite_false]
          exact ih h.2

/-- A write in range keeps the canonical form. -/
theorem wfFrom_set {m : Memory} {lo : Nat} (h : wfFrom lo m = true) {a : Nat} (ha : a < Config.memorySize) (hlo : lo ≤ a)
    (b : Byte) : wfFrom lo (set m a b) = true := by
  induction m generalizing lo with
  | nil =>
    by_cases hb : b = unlisted <;> simp [set, wfFrom, hb]
    omega
  | cons e m ih =>
    obtain ⟨k, v⟩ := e
    have h' := h
    simp only [wfFrom, Bool.and_eq_true, decide_eq_true_eq] at h'
    simp only [set]
    split
    · split
      · exact h
      · simp only [wfFrom, Bool.and_eq_true, decide_eq_true_eq]
        exact ⟨⟨⟨hlo, ha⟩, ‹_›⟩, ⟨⟨by omega, h'.1.1.2⟩, h'.1.2⟩, h'.2⟩
    · split
      · rename_i hak
        subst hak
        split
        · exact wfFrom_mono h'.2 (by omega)
        · simp only [wfFrom, Bool.and_eq_true, decide_eq_true_eq]
          exact ⟨⟨⟨hlo, ha⟩, ‹_›⟩, h'.2⟩
      · simp only [wfFrom, Bool.and_eq_true, decide_eq_true_eq]
        exact ⟨h'.1, ih h'.2 (by omega)⟩

/-- `MemWrite(a, 1, b)` keeps the canonical form (20_memory.md R42). -/
theorem wf_write {m m' : Memory} {a : Nat} {b : Byte} (h : m.wf = true) (hw : m.write a b = .ok m') :
    m'.wf = true := by
  unfold write at hw
  split at hw
  · cases hw
    exact wfFrom_set h ‹_› (Nat.zero_le a) b
  · cases hw

/-- `MemWrite(a, n, bs)` keeps the canonical form, failing or not (20_memory.md R44). -/
theorem wf_writeMany {m : Memory} (h : m.wf = true) (a : Nat) (bs : List Byte) : (m.writeMany a bs).1.wf = true := by
  induction bs generalizing m a with
  | nil => exact h
  | cons b bs ih =>
    simp only [writeMany]
    split
    · exact h
    · rename_i m' hw
      exact ih (wf_write h hw) (a + 1)

theorem read_of_lt (m : Memory) {a : Nat} (h : a < Config.memorySize) : m.read a = .ok (m.get a) := by
  simp [read, h]

theorem write_of_lt (m : Memory) {a : Nat} (h : a < Config.memorySize) (b : Byte) : m.write a b = .ok (m.set a b) := by
  simp [write, h]

end Memory

end Sys2Proof.Machine
end

