-- ==== Sys2Proof/Laws/Exec.lean ====
section
/-! SUPPORT. What each shared operation answers, said once; that every data address is in range; and that the meaning
of an instruction is that of its kind. -/

namespace Sys2Proof.Machine

/-! ### Every data address is in range (20_memory.md R45) -/

theorem addrHL_lt (s : State) : addrHL s < Config.memorySize := (s.regs.read .hl).isLt
theorem addrBC_lt (s : State) : addrBC s < Config.memorySize := (s.regs.read .bc).isLt
theorem addrDE_lt (s : State) : addrDE s < Config.memorySize := (s.regs.read .de).isLt
theorem addrAbs_lt (nn : Word) : addrAbs nn < Config.memorySize := nn.isLt

theorem addrHigh_lt (n : Byte) : addrHigh n < Config.memorySize := by
  have := n.isLt
  simp only [addrHigh, Config.highPage, Config.memorySize]
  omega

theorem addrHighC_lt (s : State) : addrHighC s < Config.memorySize := by
  have h : (s.regs.read .c).toNat < 256 := by
    simp only [RegFile.read, zext16, BitVec.toNat_setWidth]
    have := s.regs.c.isLt
    omega
  simp only [addrHighC, Config.highPage, Config.memorySize]
  omega

/-! ### The shared operations -/

theorem loadByte_of_lt (dst : Reg8) {a : Nat} (s : State) (h : a < Config.memorySize) :
    loadByte dst a s = .next (s.writeReg dst.id (zext16 (s.mem.get a))) := by
  simp [loadByte, Memory.read_of_lt _ h]

theorem storeByte_of_lt {a : Nat} (b : Byte) (s : State) (h : a < Config.memorySize) :
    storeByte a b s = .next (s.setMem (s.mem.set a b)) := by
  simp [storeByte, Memory.write_of_lt _ h]

@[simp] theorem thenSetHL_next (v : Word) (s : State) : thenSetHL v (.next s) = .next (s.writeReg .hl v) := rfl

theorem loadRegisterFromRegister_next (dst src : Reg8) (s : State) :
    loadRegisterFromRegister dst src s = .next (s.writeReg dst.id (s.regs.read src.id)) := rfl

theorem loadRegisterFromMemory_next (dst : Reg8) (s : State) :
    loadRegisterFromMemory dst s = .next (s.writeReg dst.id (zext16 (s.mem.get (addrHL s)))) := by
  simp [loadRegisterFromMemory, loadOperand, readOperand, writeOperand, Memory.read_of_lt _ (addrHL_lt s), Except.map]

theorem loadMemoryFromRegister_next (src : Reg8) (s : State) :
    loadMemoryFromRegister src s = .next (s.setMem (s.mem.set (addrHL s) (lowByte (s.regs.read src.id)))) := by
  simp [loadMemoryFromRegister, loadOperand, readOperand, writeOperand, storeByte_of_lt _ _ (addrHL_lt s)]

/-! ### The meaning of an instruction is that of its kind -/

/-- The next state of a kind, as its rule of 41_load_core.md or 42_load_extension.md gives it. -/
def kindNext (k : Kind) (s : State) : State :=
  match k with
  | .loadRegisterFromRegister dst src => s.writeReg dst.id (s.regs.read src.id)
  | .loadRegisterFromMemory dst => s.writeReg dst.id (zext16 (s.mem.get (addrHL s)))
  | .loadMemoryFromRegister src => s.setMem (s.mem.set (addrHL s) (lowByte (s.regs.read src.id)))
  | .loadRegisterFromImmediate dst n => s.writeReg dst.id (zext16 n)
  | .loadMemoryFromImmediate n => s.setMem (s.mem.set (addrHL s) n)
  | .loadAFromBC => s.writeReg .a (zext16 (s.mem.get (addrBC s)))
  | .loadAFromDE => s.writeReg .a (zext16 (s.mem.get (addrDE s)))
  | .loadBCFromA => s.setMem (s.mem.set (addrBC s) s.regs.a)
  | .loadDEFromA => s.setMem (s.mem.set (addrDE s) s.regs.a)
  | .loadAFromAbsolute nn => s.writeReg .a (zext16 (s.mem.get (addrAbs nn)))
  | .loadAbsoluteFromA nn => s.setMem (s.mem.set (addrAbs nn) s.regs.a)
  | .loadAFromHighC => s.writeReg .a (zext16 (s.mem.get (addrHighC s)))
  | .loadHighCFromA => s.setMem (s.mem.set (addrHighC s) s.regs.a)
  | .loadAFromHighImmediate n => s.writeReg .a (zext16 (s.mem.get (addrHigh n)))
  | .loadHighImmediateFromA n => s.setMem (s.mem.set (addrHigh n) s.regs.a)
  | .loadAFromHLIncrement => (s.writeReg .a (zext16 (s.mem.get (addrHL s)))).writeReg .hl (s.regs.read .hl + 1)
  | .loadAFromHLDecrement => (s.writeReg .a (zext16 (s.mem.get (addrHL s)))).writeReg .hl (s.regs.read .hl - 1)
  | .loadHLIncrementFromA => (s.setMem (s.mem.set (addrHL s) s.regs.a)).writeReg .hl (s.regs.read .hl + 1)
  | .loadHLDecrementFromA => (s.setMem (s.mem.set (addrHL s) s.regs.a)).writeReg .hl (s.regs.read .hl - 1)

@[simp] theorem lowByte_read_a (rf : RegFile) : lowByte (rf.read .a) = rf.a := by simp [RegFile.read]

/-- Everything an instruction can do, in one equation: `cases i.kind` then gives every case. -/
theorem exec_eq_kindNext (i : Instr) (s : State) : exec i s = .next (kindNext i.kind s) := by
  cases i
  case ldAtHLImm n => exact storeByte_of_lt _ _ (addrHL_lt s)
  case ldAAtBC => exact loadByte_of_lt _ _ (addrBC_lt s)
  case ldAAtDE => exact loadByte_of_lt _ _ (addrDE_lt s)
  case ldAtBCA => simp [exec, execLdAtBCA, kindNext, Instr.kind, storeByte_of_lt _ _ (addrBC_lt s)]
  case ldAtDEA => simp [exec, execLdAtDEA, kindNext, Instr.kind, storeByte_of_lt _ _ (addrDE_lt s)]
  case ldAAtAbs nn => exact loadByte_of_lt _ _ (addrAbs_lt nn)
  case ldAtAbsA nn => simp [exec, execLdAtAbsA, kindNext, Instr.kind, storeByte_of_lt _ _ (addrAbs_lt nn)]
  case ldhAAtC => exact loadByte_of_lt _ _ (addrHighC_lt s)
  case ldhAtCA => simp [exec, execLdhAtCA, kindNext, Instr.kind, storeByte_of_lt _ _ (addrHighC_lt s)]
  case ldhAAtImm n => exact loadByte_of_lt _ _ (addrHigh_lt n)
  case ldhAtImmA n => simp [exec, execLdhAtImmA, kindNext, Instr.kind, storeByte_of_lt _ _ (addrHigh_lt n)]
  case ldAAtHLInc => simp [exec, execLdAAtHLInc, kindNext, Instr.kind, loadByte_of_lt _ _ (addrHL_lt s), Reg8.id]
  case ldAAtHLDec => simp [exec, execLdAAtHLDec, kindNext, Instr.kind, loadByte_of_lt _ _ (addrHL_lt s), Reg8.id]
  case ldAtHLIncA => simp [exec, execLdAtHLIncA, kindNext, Instr.kind, storeByte_of_lt _ _ (addrHL_lt s)]
  case ldAtHLDecA => simp [exec, execLdAtHLDecA, kindNext, Instr.kind, storeByte_of_lt _ _ (addrHL_lt s)]
  all_goals first
    | exact loadRegisterFromRegister_next _ _ s
    | exact loadRegisterFromMemory_next _ s
    | exact loadMemoryFromRegister_next _ s
    | rfl

end Sys2Proof.Machine
end

