-- ==== Sys2Proof/Laws/HostInterface.lean ====
section
/-! SUPPORT. What a host access can do to the state, said once. -/

namespace Sys2Proof.Machine

/-- A host access leaves the state as it was, writes one register id, or writes bytes to memory (60_exceptions.md
R141). -/
theorem hostAct_cases (act : HostAction) (s : State) :
    (hostAct act s).2 = s ∨
    (∃ id v, act = .writeReg id v ∧ (hostAct act s).2 = s.writeReg id v) ∨
    (∃ a bs, act = .writeMem a bs ∧ (hostAct act s).2 = s.setMem (s.mem.writeMany a bs).1) := by
  cases hp : s.phase with
  | needMoreBytes => exact .inl (by simp only [hostAct, hp])
  | ready =>
    cases act with
    | readReg id => exact .inl (by simp only [hostAct, hp])
    | writeReg id v => exact .inr (.inl ⟨id, v, rfl, by simp only [hostAct, hp]⟩)
    | readMem a n =>
      left
      simp only [hostAct, hp]
      cases s.mem.readMany a n <;> rfl
    | writeMem a bs =>
      refine .inr (.inr ⟨a, bs, rfl, ?_⟩)
      simp only [hostAct, hp]
      rcases s.mem.writeMany a bs with ⟨m, _ | k⟩ <;> rfl

end Sys2Proof.Machine
end

