-- ==== Sys2Proof/Laws/PerInstr.lean ====
section
/-! SUPPORT. The per-instruction family `KindRoundTrip`: an instruction is the one its kind stands for, so a claim about
kinds is a claim about rows of the opcode table. -/

namespace Sys2Proof.Laws.KindRoundTrip

def Statement (i : Instr) : Prop := i.kind.instr = i

theorem ldBB : Statement .ldBB := rfl
theorem ldBC : Statement .ldBC := rfl
theorem ldBD : Statement .ldBD := rfl
theorem ldBE : Statement .ldBE := rfl
theorem ldBH : Statement .ldBH := rfl
theorem ldBL : Statement .ldBL := rfl
theorem ldBAtHL : Statement .ldBAtHL := rfl
theorem ldBA : Statement .ldBA := rfl
theorem ldCB : Statement .ldCB := rfl
theorem ldCC : Statement .ldCC := rfl
theorem ldCD : Statement .ldCD := rfl
theorem ldCE : Statement .ldCE := rfl
theorem ldCH : Statement .ldCH := rfl
theorem ldCL : Statement .ldCL := rfl
theorem ldCAtHL : Statement .ldCAtHL := rfl
theorem ldCA : Statement .ldCA := rfl
theorem ldDB : Statement .ldDB := rfl
theorem ldDC : Statement .ldDC := rfl
theorem ldDD : Statement .ldDD := rfl
theorem ldDE : Statement .ldDE := rfl
theorem ldDH : Statement .ldDH := rfl
theorem ldDL : Statement .ldDL := rfl
theorem ldDAtHL : Statement .ldDAtHL := rfl
theorem ldDA : Statement .ldDA := rfl
theorem ldEB : Statement .ldEB := rfl
theorem ldEC : Statement .ldEC := rfl
theorem ldED : Statement .ldED := rfl
theorem ldEE : Statement .ldEE := rfl
theorem ldEH : Statement .ldEH := rfl
theorem ldEL : Statement .ldEL := rfl
theorem ldEAtHL : Statement .ldEAtHL := rfl
theorem ldEA : Statement .ldEA := rfl
theorem ldHB : Statement .ldHB := rfl
theorem ldHC : Statement .ldHC := rfl
theorem ldHD : Statement .ldHD := rfl
theorem ldHE : Statement .ldHE := rfl
theorem ldHH : Statement .ldHH := rfl
theorem ldHL : Statement .ldHL := rfl
theorem ldHAtHL : Statement .ldHAtHL := rfl
theorem ldHA : Statement .ldHA := rfl
theorem ldLB : Statement .ldLB := rfl
theorem ldLC : Statement .ldLC := rfl
theorem ldLD : Statement .ldLD := rfl
theorem ldLE : Statement .ldLE := rfl
theorem ldLH : Statement .ldLH := rfl
theorem ldLL : Statement .ldLL := rfl
theorem ldLAtHL : Statement .ldLAtHL := rfl
theorem ldLA : Statement .ldLA := rfl
theorem ldAtHLB : Statement .ldAtHLB := rfl
theorem ldAtHLC : Statement .ldAtHLC := rfl
theorem ldAtHLD : Statement .ldAtHLD := rfl
theorem ldAtHLE : Statement .ldAtHLE := rfl
theorem ldAtHLH : Statement .ldAtHLH := rfl
theorem ldAtHLL : Statement .ldAtHLL := rfl
theorem ldAtHLA : Statement .ldAtHLA := rfl
theorem ldAB : Statement .ldAB := rfl
theorem ldAC : Statement .ldAC := rfl
theorem ldAD : Statement .ldAD := rfl
theorem ldAE : Statement .ldAE := rfl
theorem ldAH : Statement .ldAH := rfl
theorem ldAL : Statement .ldAL := rfl
theorem ldAAtHL : Statement .ldAAtHL := rfl
theorem ldAA : Statement .ldAA := rfl
theorem ldBImm (n : Byte) : Statement (.ldBImm n) := rfl
theorem ldCImm (n : Byte) : Statement (.ldCImm n) := rfl
theorem ldDImm (n : Byte) : Statement (.ldDImm n) := rfl
theorem ldEImm (n : Byte) : Statement (.ldEImm n) := rfl
theorem ldHImm (n : Byte) : Statement (.ldHImm n) := rfl
theorem ldLImm (n : Byte) : Statement (.ldLImm n) := rfl
theorem ldAImm (n : Byte) : Statement (.ldAImm n) := rfl
theorem ldAtHLImm (n : Byte) : Statement (.ldAtHLImm n) := rfl
theorem ldAAtBC : Statement .ldAAtBC := rfl
theorem ldAAtDE : Statement .ldAAtDE := rfl
theorem ldAtBCA : Statement .ldAtBCA := rfl
theorem ldAtDEA : Statement .ldAtDEA := rfl
theorem ldAAtAbs (nn : Word) : Statement (.ldAAtAbs nn) := rfl
theorem ldAtAbsA (nn : Word) : Statement (.ldAtAbsA nn) := rfl
theorem ldhAAtC : Statement .ldhAAtC := rfl
theorem ldhAtCA : Statement .ldhAtCA := rfl
theorem ldhAAtImm (n : Byte) : Statement (.ldhAAtImm n) := rfl
theorem ldhAtImmA (n : Byte) : Statement (.ldhAtImmA n) := rfl
theorem ldAAtHLInc : Statement .ldAAtHLInc := rfl
theorem ldAAtHLDec : Statement .ldAAtHLDec := rfl
theorem ldAtHLIncA : Statement .ldAtHLIncA := rfl
theorem ldAtHLDecA : Statement .ldAtHLDecA := rfl

end Sys2Proof.Laws.KindRoundTrip
end

