-- ==== Sys2Proof/Laws/Step.lean ====
section
/-! SUPPORT. What a fetch, a call of `run_one` and a composed step can do, each said once. -/

namespace Sys2Proof.Machine

/-- The one-byte read is the multi-byte read of one byte. -/
theorem Memory.readMany_one (m : Memory) (a : Nat) : m.readMany a 1 = (m.read a).map fun b => [b] := by
  simp only [Memory.readMany]
  cases m.read a <;> rfl

/-- A multi-byte read yields as many bytes as asked for. -/
theorem Memory.length_readMany {m : Memory} {a n : Nat} {bs : List Byte} (h : m.readMany a n = .ok bs) :
    bs.length = n := by
  induction n generalizing a bs with
  | zero => simp only [Memory.readMany] at h; cases h; rfl
  | succ n ih =>
    simp only [Memory.readMany] at h
    split at h
    · cases h
    · split at h
      · cases h
      · rename_i hrest
        cases h
        simp [ih hrest]

/-- The only error of a multi-byte read that starts in range is the first address past the end. -/
theorem Memory.error_readMany {m : Memory} {a n : Nat} {k : ErrorKind} (ha : a ≤ Config.memorySize)
    (h : m.readMany a n = .error k) : k = .outOfBounds Config.memorySize := by
  induction n generalizing a with
  | zero => simp [Memory.readMany] at h
  | succ n ih =>
    simp only [Memory.readMany, Memory.read] at h
    by_cases hlt : a < Config.memorySize
    · simp only [hlt, ite_true] at h
      split at h
      · rename_i hrest
        cases h
        exact ih (by omega) hrest
      · cases h
    · simp only [hlt, ite_false] at h
      cases h
      congr
      omega

theorem pc_lt (s : State) : (s.regs.read .pc).toNat < Config.memorySize := (s.regs.read .pc).isLt

/-- A fetch between calls: it decodes the bytes at PC to a whole instruction, or it fails for an unclassified opcode
byte, or, with `LOAD_EXT` only, for a trailing byte past the top of memory; the state is as it was. -/
theorem fetch_cases {s : State} (hs : s.phase = .ready) :
    (∃ d bs, fetch s = .decoded d s ∧ s.mem.readMany (s.regs.read .pc).toNat bs.length = .ok bs ∧
      decode s.loadExt bs = .complete d) ∨
    fetch s = .failed .invalidOpcode s ∨
    (s.loadExt = true ∧ fetch s = .failed (.outOfBounds Config.memorySize) s) := by
  have hback : (s.setPhase .needMoreBytes).setPhase .ready = s := by
    cases s
    simp_all [State.setPhase]
  have hread := Memory.read_of_lt s.mem (pc_lt s)
  unfold fetch
  simp only [hread]
  generalize hb : s.mem.get (s.regs.read .pc).toNat = b0
  rw [hb] at hread
  cases hc : classify s.loadExt b0 with
  | none =>
    right; left
    simp [decode_unclassified hc, endOfFetch]
  | some cls =>
    obtain ⟨h1, -, hbase⟩ := classify_length hc
    by_cases hone : cls.length = 1
    · left
      have hdec := decode_whole hc (trailing := []) (by simp [hone])
      refine ⟨_, [b0], ?_, ?_, hdec⟩
      · simp only [hdec, endOfFetch]
      · simp [Memory.readMany_one, hread, Except.map]
    · have hmore : decode s.loadExt [b0] = .needMoreBytes (cls.length - 1) := by
        have : 1 < cls.length := by omega
        simp [decode_cons hc, this]
      simp only [hmore, fetchRest, State.setPhase_mem, State.setPhase_regs, State.setPhase_loadExt, hback]
      cases hrest : s.mem.readMany ((s.regs.read .pc).toNat + 1) (cls.length - 1) with
      | error k =>
        right; right
        have hlt := pc_lt s
        refine ⟨?_, ?_⟩
        · cases he : s.loadExt with
          | true => rfl
          | false => exact absurd (hbase he) hone
        · simp only [Memory.error_readMany (by omega) hrest]
      | ok rest =>
        left
        have hlen : 1 + rest.length = cls.length := by
          have := Memory.length_readMany hrest
          omega
        have hdec := decode_whole hc hlen
        refine ⟨_, b0 :: rest, ?_, ?_, hdec⟩
        · simp only [hdec, endOfFetch]
        · have : (b0 :: rest).length = (cls.length - 1) + 1 := by simp; omega
          rw [this, Memory.readMany, hread]
          simp only [hrest]

/-- A call of `run_one` between calls: a fetched instruction runs and the call returns its cost and length, or the
fetch's error is returned; an error leaves the state as it was (60_exceptions.md R133). -/
theorem runOne_cases {s : State} (hs : s.phase = .ready) :
    (∃ d bs, runOne s = .ok d.cycles d.length (kindNext d.instr.kind s) ∧
      s.mem.readMany (s.regs.read .pc).toNat bs.length = .ok bs ∧ decode s.loadExt bs = .complete d) ∨
    runOne s = .error .invalidOpcode s ∨
    (s.loadExt = true ∧ runOne s = .error (.outOfBounds Config.memorySize) s) := by
  unfold runOne
  simp only [hs]
  rcases fetch_cases hs with ⟨d, bs, hf, hr, hd⟩ | hf | ⟨he, hf⟩
  · exact .inl ⟨d, bs, by simp [hf, executeDecoded, exec_eq_kindNext], hr, hd⟩
  · exact .inr (.inl (by simp [hf]))
  · exact .inr (.inr ⟨he, by simp [hf]⟩)

/-- What a composed step that answers a next state from a state between calls has done. -/
theorem step_cases {s t : State} (hs : s.phase = .ready) (h : step s = .next t) :
    (∃ d bs, t = ((kindNext d.instr.kind s).advancePc d.length).setResult (.ok d.cycles d.length) ∧
      s.mem.readMany (s.regs.read .pc).toNat bs.length = .ok bs ∧ decode s.loadExt bs = .complete d) ∨
    t = s.raise .invalidOpcode ∨
    (s.loadExt = true ∧ t = s.raise (.outOfBounds Config.memorySize)) := by
  unfold step composedStep at h
  split at h
  · cases h
  · split at h
    · cases h
    · rcases runOne_cases hs with ⟨d, bs, hr, hm, hd⟩ | hr | ⟨he, hr⟩
      · rw [hr] at h
        cases h
        exact .inl ⟨d, bs, rfl, hm, hd⟩
      · rw [hr] at h
        cases h
        exact .inr (.inl rfl)
      · rw [hr] at h
        cases h
        exact .inr (.inr ⟨he, rfl⟩)

/-- A step answers a next state only from a state between calls with no fault, not at `END_PC`. -/
theorem step_next_premise {s t : State} (h : step s = .next t) :
    s.fault = none ∧ s.phase = .ready ∧ s.endPc ≠ some (s.regs.read .pc) := by
  unfold step composedStep at h
  split at h
  · cases h
  · rename_i hf
    split at h
    · cases h
    · rename_i he
      refine ⟨hf, ?_, he⟩
      cases hp : s.phase with
      | ready => rfl
      | needMoreBytes =>
        simp [runOne, hp] at h

end Sys2Proof.Machine
end

