-- ==== Sys2Proof/Machine/Flags.lean ====
section
/-! DEFINITION. The four flags of F by name (10_state.md R27). No instruction computes, reads or writes a flag (R28), so
there is no flag computation here, only the layout. -/

namespace Sys2Proof.Machine

/-- The four flags of F's high nibble (10_state.md R20, R27). -/
inductive Flag
  | zero | subtract | halfCarry | carry
deriving DecidableEq, Repr

/-- The bit of F a flag stands at: Z 7, N 6, H 5, C 4. PRESUMED (assumption log 14): the Game Boy's layout, as R27 gives
it from general knowledge; no rule depends on it. -/
def Flag.bit : Flag → Nat
  | .zero => 7
  | .subtract => 6
  | .halfCarry => 5
  | .carry => 4

/-- The value of a flag, read from F. -/
def RegFile.flag (rf : RegFile) (fl : Flag) : Bool := rf.f.getLsbD fl.bit

end Sys2Proof.Machine
end

