-- ==== Sys2Proof/Tests/Slice0.lean ====
section
/-! SUPPORT. The model's own tests: the WellFormed smoke, decoding by words written out from 30_encoding.md R78 and
42_load_extension.md R107, the vectors of 95_test_vectors.md, and a witness for every statement with hypotheses. -/

namespace Sys2Proof.Tests

open Sys2Proof.Machine

/-- The outcome is a next state that passes the check. -/
def nextIs (o : StepOutcome) (p : State → Bool) : Bool :=
  match o with
  | .next s => p s
  | .fault _ => false
  | .refused _ => false

/-- A small machine: PC, `LOAD_EXT`, memory cells, the other registers zero. -/
def machine (pc : Word) (ext : Bool) (cells : List Host.Cell) : State :=
  { State.reset with regs := { RegFile.reset with pc := pc }, mem := cells, loadExt := ext }

/-- The machine with one register set. -/
def having (s : State) (id : RegId) (v : Word) : State := s.writeReg id v

/-- The bytes decode to the instruction with the cost. -/
def reads (ext : Bool) (bytes : List Byte) (i : Instr) (cycles : Nat) : Bool :=
  match decode ext bytes with
  | .complete d => d.instr == i && d.cycles == cycles && d.length == bytes.length
  | .needMoreBytes _ => false
  | .error _ => false

/-! ### WellFormed: LOAD_EXT rows do not exist in the base configuration (30_encoding.md R71) -/

theorem test_wellFormed_refuses_extension_when_off :
    ([Instr.ldBImm 0x7F#8, .ldAtHLImm 0#8, .ldAAtBC, .ldAAtAbs 0#16, .ldhAtCA, .ldAAtHLInc].all
      fun i => !(i.wellFormed false) && i.wellFormed true) = true := by decide

theorem test_wellFormed_base_always : ([Instr.ldBC, .ldAAtHL, .ldAtHLA].all
    fun i => i.wellFormed false && i.wellFormed true) = true := by decide

/-! ### Decoding, every row of the table (words from 30_encoding.md R78 and 42_load_extension.md R107) -/

theorem test_decode_row_0 : (([
    ([0x40#8], .ldBB, 1), ([0x41#8], .ldBC, 1), ([0x42#8], .ldBD, 1), ([0x43#8], .ldBE, 1),
    ([0x44#8], .ldBH, 1), ([0x45#8], .ldBL, 1), ([0x46#8], .ldBAtHL, 2), ([0x47#8], .ldBA, 1)] : List (List Byte × Instr × Nat)).all fun p => reads false p.1 p.2.1 p.2.2) = true := by decide

theorem test_decode_row_1 : (([
    ([0x48#8], .ldCB, 1), ([0x49#8], .ldCC, 1), ([0x4A#8], .ldCD, 1), ([0x4B#8], .ldCE, 1),
    ([0x4C#8], .ldCH, 1), ([0x4D#8], .ldCL, 1), ([0x4E#8], .ldCAtHL, 2), ([0x4F#8], .ldCA, 1)] : List (List Byte × Instr × Nat)).all fun p => reads false p.1 p.2.1 p.2.2) = true := by decide

theorem test_decode_row_2 : (([
    ([0x50#8], .ldDB, 1), ([0x51#8], .ldDC, 1), ([0x52#8], .ldDD, 1), ([0x53#8], .ldDE, 1),
    ([0x54#8], .ldDH, 1), ([0x55#8], .ldDL, 1), ([0x56#8], .ldDAtHL, 2), ([0x57#8], .ldDA, 1)] : List (List Byte × Instr × Nat)).all fun p => reads false p.1 p.2.1 p.2.2) = true := by decide

theorem test_decode_row_3 : (([
    ([0x58#8], .ldEB, 1), ([0x59#8], .ldEC, 1), ([0x5A#8], .ldED, 1), ([0x5B#8], .ldEE, 1),
    ([0x5C#8], .ldEH, 1), ([0x5D#8], .ldEL, 1), ([0x5E#8], .ldEAtHL, 2), ([0x5F#8], .ldEA, 1)] : List (List Byte × Instr × Nat)).all fun p => reads false p.1 p.2.1 p.2.2) = true := by decide

theorem test_decode_row_4 : (([
    ([0x60#8], .ldHB, 1), ([0x61#8], .ldHC, 1), ([0x62#8], .ldHD, 1), ([0x63#8], .ldHE, 1),
    ([0x64#8], .ldHH, 1), ([0x65#8], .ldHL, 1), ([0x66#8], .ldHAtHL, 2), ([0x67#8], .ldHA, 1)] : List (List Byte × Instr × Nat)).all fun p => reads false p.1 p.2.1 p.2.2) = true := by decide

theorem test_decode_row_5 : (([
    ([0x68#8], .ldLB, 1), ([0x69#8], .ldLC, 1), ([0x6A#8], .ldLD, 1), ([0x6B#8], .ldLE, 1),
    ([0x6C#8], .ldLH, 1), ([0x6D#8], .ldLL, 1), ([0x6E#8], .ldLAtHL, 2), ([0x6F#8], .ldLA, 1)] : List (List Byte × Instr × Nat)).all fun p => reads false p.1 p.2.1 p.2.2) = true := by decide

theorem test_decode_row_6 : (([
    ([0x70#8], .ldAtHLB, 2), ([0x71#8], .ldAtHLC, 2), ([0x72#8], .ldAtHLD, 2), ([0x73#8], .ldAtHLE, 2),
    ([0x74#8], .ldAtHLH, 2), ([0x75#8], .ldAtHLL, 2), ([0x77#8], .ldAtHLA, 2)] : List (List Byte × Instr × Nat)).all fun p => reads false p.1 p.2.1 p.2.2) = true := by decide

theorem test_decode_row_7 : (([
    ([0x78#8], .ldAB, 1), ([0x79#8], .ldAC, 1), ([0x7A#8], .ldAD, 1), ([0x7B#8], .ldAE, 1),
    ([0x7C#8], .ldAH, 1), ([0x7D#8], .ldAL, 1), ([0x7E#8], .ldAAtHL, 2), ([0x7F#8], .ldAA, 1)] : List (List Byte × Instr × Nat)).all fun p => reads false p.1 p.2.1 p.2.2) = true := by decide

theorem test_decode_extension : (([
    ([0x06#8, 0x5A#8], .ldBImm 0x5A#8, 2), ([0x0E#8, 0x5A#8], .ldCImm 0x5A#8, 2), ([0x16#8, 0x5A#8], .ldDImm 0x5A#8, 2), ([0x1E#8, 0x5A#8], .ldEImm 0x5A#8, 2),
    ([0x26#8, 0x5A#8], .ldHImm 0x5A#8, 2), ([0x2E#8, 0x5A#8], .ldLImm 0x5A#8, 2), ([0x3E#8, 0x5A#8], .ldAImm 0x5A#8, 2), ([0x36#8, 0x5A#8], .ldAtHLImm 0x5A#8, 3),
    ([0x0A#8], .ldAAtBC, 2), ([0x1A#8], .ldAAtDE, 2), ([0x02#8], .ldAtBCA, 2), ([0x12#8], .ldAtDEA, 2),
    ([0xFA#8, 0x34#8, 0x12#8], .ldAAtAbs 0x1234#16, 4), ([0xEA#8, 0x34#8, 0x12#8], .ldAtAbsA 0x1234#16, 4), ([0xF2#8], .ldhAAtC, 2), ([0xE2#8], .ldhAtCA, 2),
    ([0xF0#8, 0x5A#8], .ldhAAtImm 0x5A#8, 3), ([0xE0#8, 0x5A#8], .ldhAtImmA 0x5A#8, 3), ([0x2A#8], .ldAAtHLInc, 2), ([0x3A#8], .ldAAtHLDec, 2),
    ([0x22#8], .ldAtHLIncA, 2), ([0x32#8], .ldAtHLDecA, 2)] : List (List Byte × Instr × Nat)).all fun p => reads true p.1 p.2.1 p.2.2) = true := by decide
/-- Complete, NeedMoreBytes and Error counts over the 64 opcode bytes with one header. -/
def counts (ext : Bool) (header : Nat) : Nat × Nat × Nat :=
  (List.range 64).foldr (fun n c =>
    match decode ext [BitVec.ofNat 8 (64 * header + n)] with
    | .complete _ => (c.1 + 1, c.2.1, c.2.2)
    | .needMoreBytes _ => (c.1, c.2.1 + 1, c.2.2)
    | .error _ => (c.1, c.2.1, c.2.2 + 1)) (0, 0, 0)

/-- 95_test_vectors.md L2-3: 63 Complete and 193 errors over the 256 bytes. -/
theorem test_decode_counts_base :
    [counts false 0, counts false 1, counts false 2, counts false 3] = [(0, 0, 64), (63, 0, 1), (0, 0, 64), (0, 0, 64)] :=
  rfl

/-- 95_test_vectors.md L2-3: with `LOAD_EXT`, 73 Complete, 12 NeedMoreBytes and 171 errors. -/
theorem test_decode_counts_extension :
    [counts true 0, counts true 1, counts true 2, counts true 3] = [(8, 8, 48), (63, 0, 1), (0, 0, 64), (2, 4, 58)] :=
  rfl

/-- 95_test_vectors.md L2-3 d to o. -/
theorem test_decode_errors :
    decode false [0x76#8] = .error .invalidOpcode ∧ decode true [0x76#8, 0x00#8] = .error .invalidOpcode ∧
    decode false [0x3E#8] = .error .invalidOpcode ∧ decode true [0x3E#8] = .needMoreBytes 1 ∧
    decode true [0xFA#8] = .needMoreBytes 2 ∧ decode true [0xFA#8, 0x34#8] = .needMoreBytes 1 ∧
    decode true [0xFA#8, 0#8, 0#8, 0#8] = .error (.wrongOpcodeSize (-1)) ∧
    decode true [0x80#8] = .error .invalidOpcode ∧ decode false [0x41#8, 0#8, 0#8] = .error (.wrongOpcodeSize (-2)) ∧
    decode false [] = .error .invalidOpcode := by decide

/-- 30_encoding.md R77 on 0x6E (95_test_vectors.md L1-5) and R48 on nn. -/
theorem test_encode : encode .ldLAtHL = [0x6E#8] ∧ encode (.ldAAtAbs 0xC0DE#16) = [0xFA#8, 0xDE#8, 0xC0#8] := by decide

/-- 30_encoding.md R64: the sentinel is not register HL. -/
theorem test_operand_sentinel : operandOf 0b110#3 = .memoryViaHL := by decide

/-- 60_exceptions.md R129: the sentinel where a register is required. -/
theorem test_unknownRegister : requireRegister .memoryViaHL = .error .unknownRegister := by rfl

/-- A row's instruction by the table's numbering: `LD (n16),A` with operand bytes in bits 23..8, and zeros where the
table gives none. -/
theorem test_decodeTableWord :
    decodeTableWord 24 0xC000EA = some (.ldAtAbsA 0xC000#16) ∧ decodeTableWord 8 0x3E = some (.ldAImm 0#8) ∧
    decodeTableWord 8 0x41 = some .ldBC ∧ decodeTableWord 8 0x76 = none := by decide

/-! ### Register File (95_test_vectors.md L2-1) -/

theorem test_registerFile :
    (RegFile.reset.write .b 0x1234#16).read .b = 0x0034#16 ∧ (RegFile.reset.write .f 0x00FF#16).read .f = 0x00F0#16 ∧
    (RegFile.reset.write .f 0x000F#16).f = 0x00#8 ∧ (RegFile.reset.write .af 0x12FF#16).read .af = 0x12F0#16 ∧
    ((RegFile.reset.write .d 0xAB#16).write .e 0xCD#16).read .de = 0xABCD#16 ∧
    ((RegFile.reset.write .hl 0x8000#16).write .l 0x01FF#16).read .hl = 0x80FF#16 ∧
    (RegFile.reset.write .hl 0xBEEF#16).h = 0xBE#8 := by decide

/-- 10_state.md R27: F = 0x90 has Z and C set, N and H clear. -/
theorem test_flags : ([Flag.zero, .subtract, .halfCarry, .carry].map (RegFile.reset.write .f 0x90#16).flag)
    = [true, false, false, true] := by decide

/-! ### Address Space (95_test_vectors.md L2-2) -/

theorem test_memory_errors :
    Memory.readMany [] 0xFFFF 2 = .error (.outOfBounds 0x10000) ∧ Memory.read [] 0x10000 = .error (.outOfBounds 0x10000) ∧
    Memory.readMany [] 0x1234 0 = .ok [] := ⟨rfl, rfl, rfl⟩

theorem test_memory_partial_write :
    Memory.writeMany [] 0xFFFF [0x01#8, 0x02#8] = ([(0xFFFF, 0x01#8)], some (.outOfBounds 0x10000)) ∧
    Memory.writeMany [] 0x10000 [0x01#8, 0x02#8] = ([], some (.outOfBounds 0x10000)) := by decide

/-- Writing what an unlisted byte reads as removes the entry; entries stay in order. -/
theorem test_memory_canonical :
    Memory.set [(1, 5#8), (9, 7#8)] 9 0#8 = [(1, 5#8)] ∧
    Memory.set [(1, 5#8), (9, 7#8)] 4 6#8 = [(1, 5#8), (4, 6#8), (9, 7#8)] := by decide

/-! ### Instructions (95_test_vectors.md L2-4, L2-5, L2-7) -/

theorem test_ld_b_c : nextIs (exec .ldBC (having State.reset .c 0x5A#16))
    (fun t => t.regs.b == 0x5A#8 && t.regs.c == 0x5A#8) = true := by decide
theorem test_ld_h_a_keeps_f : nextIs (exec .ldHA (having (having (having State.reset .hl 0x1234#16) .a 0x99#16) .f 0xB0#16))
    (fun t => t.regs.read .hl == 0x9934#16 && t.regs.f == 0xB0#8) = true := by decide
theorem test_ld_a_atHL : nextIs (exec .ldAAtHL (having (machine 0#16 false [(0xC000, 0x99#8)]) .hl 0xC000#16))
    (fun t => t.regs.a == 0x99#8) = true := by decide
theorem test_ld_h_atHL : nextIs (exec .ldHAtHL (having (machine 0#16 false [(0x8010, 0x33#8)]) .hl 0x8010#16))
    (fun t => t.regs.read .hl == 0x3310#16) = true := by decide
theorem test_ld_l_atHL : nextIs (exec .ldLAtHL (having (machine 0#16 false [(0x8010, 0x33#8)]) .hl 0x8010#16))
    (fun t => t.regs.read .hl == 0x8033#16) = true := by decide
theorem test_ld_atHL_h : nextIs (exec .ldAtHLH (having State.reset .hl 0xC123#16))
    (fun t => t.mem == [(0xC123, 0xC1#8)]) = true := by decide
theorem test_ld_atHL_l : nextIs (exec .ldAtHLL (having State.reset .hl 0xC123#16))
    (fun t => t.mem == [(0xC123, 0x23#8)]) = true := by decide
theorem test_ld_atHL_a_top : nextIs (exec .ldAtHLA (having (having State.reset .hl 0xFFFF#16) .a 0x42#16))
    (fun t => t.mem == [(0xFFFF, 0x42#8)]) = true := by decide
theorem test_ld_b_imm : nextIs (exec (.ldBImm 0x7F#8) State.reset) (fun t => t.regs.b == 0x7F#8) = true := by decide
theorem test_ld_atHL_imm : nextIs (exec (.ldAtHLImm 0xAB#8) (having State.reset .hl 0xC000#16))
    (fun t => t.mem == [(0xC000, 0xAB#8)]) = true := by decide
theorem test_ld_a_atBC : nextIs (exec .ldAAtBC (having (machine 0#16 true [(0xD000, 0x05#8)]) .bc 0xD000#16))
    (fun t => t.regs.a == 0x05#8) = true := by decide
theorem test_ld_a_atDE : nextIs (exec .ldAAtDE (having (machine 0#16 true [(0x0001, 0xEE#8)]) .de 0x0001#16))
    (fun t => t.regs.a == 0xEE#8) = true := by decide
theorem test_ld_atBC_a : nextIs (exec .ldAtBCA (having (having State.reset .a 0x11#16) .bc 0xC100#16))
    (fun t => t.mem == [(0xC100, 0x11#8)]) = true := by decide
theorem test_ld_atDE_a : nextIs (exec .ldAtDEA (having (having State.reset .a 0x22#16) .de 0xC200#16))
    (fun t => t.mem == [(0xC200, 0x22#8)]) = true := by decide
theorem test_ld_a_abs : nextIs (exec (.ldAAtAbs 0xC0DE#16) (machine 0#16 true [(0xC0DE, 0x4D#8)]))
    (fun t => t.regs.a == 0x4D#8) = true := by decide
theorem test_ld_abs_a : nextIs (exec (.ldAtAbsA 0xC000#16) (having State.reset .a 0x99#16))
    (fun t => t.mem == [(0xC000, 0x99#8)]) = true := by decide
theorem test_ldh_a_c : nextIs (exec .ldhAAtC (having (machine 0#16 true [(0xFF80, 0x01#8)]) .c 0x80#16))
    (fun t => t.regs.a == 0x01#8) = true := by decide
theorem test_ldh_c_a : nextIs (exec .ldhAtCA (having (having State.reset .a 0x3C#16) .c 0xFF#16))
    (fun t => t.mem == [(0xFFFF, 0x3C#8)]) = true := by decide
theorem test_ldh_a_imm : nextIs (exec (.ldhAAtImm 0x44#8) (machine 0#16 true [(0xFF44, 0x90#8)]))
    (fun t => t.regs.a == 0x90#8) = true := by decide
theorem test_ldh_imm_a : nextIs (exec (.ldhAtImmA 0x80#8) (having State.reset .a 0x07#16))
    (fun t => t.mem == [(0xFF80, 0x07#8)]) = true := by decide
theorem test_ld_a_hlInc_wraps : nextIs (exec .ldAAtHLInc (having (machine 0#16 true [(0xFFFF, 0x12#8)]) .hl 0xFFFF#16))
    (fun t => t.regs.a == 0x12#8 && t.regs.read .hl == 0x0000#16) = true := by decide
theorem test_ld_a_hlDec_wraps : nextIs (exec .ldAAtHLDec (having (machine 0#16 true [(0x0000, 0x31#8)]) .hl 0x0000#16))
    (fun t => t.regs.a == 0x31#8 && t.regs.read .hl == 0xFFFF#16) = true := by decide
theorem test_ld_hlInc_a : nextIs (exec .ldAtHLIncA (having (having State.reset .a 0x01#16) .hl 0xC0FF#16))
    (fun t => t.mem == [(0xC0FF, 0x01#8)] && t.regs.read .hl == 0xC100#16) = true := by decide
theorem test_ld_hlDec_a : nextIs (exec .ldAtHLDecA (having (machine 0#16 true [(0xDFFF, 0x44#8)]) .hl 0xDFFF#16))
    (fun t => t.mem == [] && t.regs.read .hl == 0xDFFE#16) = true := by decide

/-! ### The composed step (95_test_vectors.md L2-6) -/

theorem test_step_advances : nextIs (step (machine 0x0100#16 false [(0x0100, 0x41#8)]))
    (fun t => t.regs.pc == 0x0101#16 && t.result == some (.ok 1 1)) = true := by decide
theorem test_step_wraps : nextIs (step (machine 0xFFFF#16 false [(0xFFFF, 0x41#8)]))
    (fun t => t.regs.pc == 0x0000#16 && t.fault == none) = true := by decide
theorem test_step_invalid : nextIs (step (machine 0x0100#16 false [(0x0100, 0x76#8)]))
    (fun t => t.regs.pc == 0x0100#16 && t.fault == some .invalidOpcode) = true := by decide
theorem test_step_extension_off : nextIs (step (machine 0xFFFF#16 false [(0xFFFF, 0x3E#8)]))
    (fun t => t.fault == some .invalidOpcode) = true := by decide
theorem test_step_past_top : nextIs (step (machine 0xFFFF#16 true [(0xFFFF, 0x3E#8)]))
    (fun t => t.fault == some (.outOfBounds 0x10000) && t.regs.pc == 0xFFFF#16 && t.phase == .ready) = true := by decide
theorem test_step_past_top_two : nextIs (step (machine 0xFFFE#16 true [(0xFFFE, 0xFA#8)]))
    (fun t => t.fault == some (.outOfBounds 0x10000)) = true := by decide
theorem test_step_three_bytes_at_top :
    nextIs (step (machine 0xFFFD#16 true [(0xC000, 0x11#8), (0xFFFD, 0xFA#8), (0xFFFF, 0xC0#8)]))
    (fun t => t.regs.a == 0x11#8 && t.regs.pc == 0x0000#16 && t.result == some (.ok 4 3)) = true := by decide
theorem test_step_end : step { machine 0x0100#16 false [] with endPc := some 0x0100#16 } = .refused .runEnded := rfl
theorem test_step_stuck : step ((machine 0#16 false []).raise .invalidOpcode) = .fault (.stuck .invalidOpcode) := rfl

/-- The first instruction after reset, base and `LOAD_EXT`, one to three bytes. -/
theorem test_withFetchWord :
    nextIs (step (State.reset.withFetchWord 8 0x7D)) (fun t => t.fault == none && t.result == some (.ok 1 1)) = true ∧
    nextIs (step (State.reset.withFetchWord 16 0x7F3E)) (fun t => t.regs.a == 0x7F#8 && t.fault == none) = true ∧
    nextIs (step (State.reset.withFetchWord 8 0xFA)) (fun t => t.regs.a == 0xFA#8 && t.regs.pc == 3#16) = true ∧
    (State.reset.withFetchWord 8 0x41).loadExt = false := by decide

/-- The whole of reset with nothing placed: byte 0x00 at 0x0000 is no instruction (assumption log 17). -/
theorem test_reset_first_step : nextIs (step State.reset) (fun t => t.fault == some .invalidOpcode) = true := by decide

/-- 70_reset_and_hazards.md R145. -/
theorem test_launch_refused :
    State.launch ⟨{ RegFile.reset with f := 0x01#8 }, [], false, none⟩ = .refused .launchFlagsNotZero := rfl

/-! ### Witnesses: for every statement with hypotheses, a state and operands that meet them, clause by clause -/

/-- A machine ready to step at 0x0100 with `LD B,B` there. -/
def ready : State := machine 0x0100#16 false [(0x0100, 0x40#8)]

theorem ready_canStep : canStep ready := by refine ⟨rfl, rfl, ?_⟩; decide

theorem witness_RegisterReadByClass : RegId.l ∈ [RegId.a, .f, .b, .c, .d, .e, .h, .l] ∧
    (RegFile.reset.write .af 0x12FF#16).flagsWf = true := by decide
theorem witness_RegisterWriteByClass : RegId.l ∈ [RegId.a, .b, .c, .d, .e, .h, .l] := by decide
theorem witness_RegisterWriteFrame : isCell .sp = true ∧ RegId.sp ∉ cellsOf .hl ∧ RegFile.reset.flagsWf = true := by
  decide
theorem witness_SingleByteRead : 0xFFFF < 0x10000 ∧ 0x10000 ≤ 0x10000 := by decide
theorem witness_SingleByteWrite : Memory.wf [(0xFFFF, 1#8)] = true ∧ 0xFFFF < 0x10000 ∧ 0x10000 ≤ 0x10000 := by decide
theorem witness_MultiByteRead : (0 < 2 ∧ 0x10000 ≤ 0xFFFF + 2 - 1) ∧ 0xFFFE + 2 ≤ 0x10000 := by decide
theorem witness_MultiByteWrite : Memory.wf [(0, 1#8), (0xFFFF, 1#8)] = true := by decide
theorem witness_CanonicalMemories : Memory.wf [(0, 1#8), (0xFFFF, 2#8)] = true ∧
    ∀ a, Memory.read [(0, 1#8), (0xFFFF, 2#8)] a = Memory.read [(0, 1#8), (0xFFFF, 2#8)] a := by
  refine ⟨by decide, fun _ => rfl⟩
theorem witness_OperandFieldMap : operandOf 0b111#3 = .register .a := by decide
theorem witness_LoadFamily :
    (opHeader 0x76#8 = 0b01#2 ∧ opFirst 0x76#8 = 0b110#3 ∧ opSecond 0x76#8 = 0b110#3) ∧
    (opHeader 0x77#8 = 0b01#2 ∧ opFirst 0x77#8 = 0b110#3 ∧ operandOf (opSecond 0x77#8) = .register .a) ∧
    (opHeader 0x46#8 = 0b01#2 ∧ operandOf (opFirst 0x46#8) = .register .b ∧ opSecond 0x46#8 = 0b110#3) ∧
    (opHeader 0x7F#8 = 0b01#2 ∧ operandOf (opFirst 0x7F#8) = .register .a ∧
      operandOf (opSecond 0x7F#8) = .register .a) := by decide
theorem witness_UnclassifiedBytes : opHeader 0xFF#8 ≠ 0b01#2 ∧ opHeader 0x02#8 ≠ 0b01#2 ∧ opHeader 0xFA#8 ≠ 0b01#2 ∧
    0xFF#8 ∉ [0x02#8, 0x06#8, 0x0A#8, 0x0E#8, 0x12#8, 0x16#8, 0x1A#8, 0x1E#8, 0x22#8, 0x26#8, 0x2A#8, 0x2E#8, 0x32#8,
      0x36#8, 0x3A#8, 0x3E#8, 0xE0#8, 0xE2#8, 0xEA#8, 0xF0#8, 0xF2#8, 0xFA#8] ∧
    0x02#8 ∈ [0x02#8, 0x06#8, 0x0A#8, 0x0E#8, 0x12#8, 0x16#8, 0x1A#8, 0x1E#8, 0x22#8, 0x26#8, 0x2A#8, 0x2E#8, 0x32#8,
      0x36#8, 0x3A#8, 0x3E#8, 0xE0#8, 0xE2#8, 0xEA#8, 0xF0#8, 0xF2#8, 0xFA#8] ∧
    0xFA#8 ∈ [0x02#8, 0x06#8, 0x0A#8, 0x0E#8, 0x12#8, 0x16#8, 0x1A#8, 0x1E#8, 0x22#8, 0x26#8, 0x2A#8, 0x2E#8, 0x32#8,
      0x36#8, 0x3A#8, 0x3E#8, 0xE0#8, 0xE2#8, 0xEA#8, 0xF0#8, 0xF2#8, 0xFA#8] := by decide
theorem witness_ExcessBytes : opHeader 0x7F#8 = 0b01#2 ∧ 0x7F#8 ≠ 0x76#8 ∧ [0#8] ≠ [] := by decide
theorem witness_ClassificationPrecedesSize : decode true [0x76#8, 0x00#8] = .error .invalidOpcode := by decide
theorem witness_MissingBytes : decode true [0xFA#8, 0x34#8] = .needMoreBytes 1 ∧ [0x12#8].length = 1 := by decide
theorem witness_LengthAndCost : reads true [0xFA#8, 0#8, 0#8] (.ldAAtAbs 0#16) 4 = true ∧
    reads true [0xFA#8, 1#8, 0#8] (.ldAAtAbs 1#16) 4 = true := by decide
theorem witness_DecodedInstruction : decodesTo false [0x7F#8] .ldAA 1 := ⟨_, rfl, rfl, rfl, rfl⟩
theorem witness_DecodeOfEncode : Instr.wellFormed true (.ldAtAbsA 0xFFFF#16) = true ∧ Instr.wellFormed false .ldAA = true := by
  decide
theorem witness_SameRegisterLoad : (0x40#8, Instr.ldBB) ∈ [(0x40#8, Instr.ldBB), (0x7F#8, .ldAA)] ∧ canStep ready ∧
    ready.mem.read ready.regs.pc.toNat = .ok 0x40#8 := by
  refine ⟨by decide, ready_canStep, rfl⟩
theorem witness_store_wf : ready.mem.wf = true := by decide
theorem witness_InstructionFrame : ready.mem.wf = true ∧ exec .ldBB ready = .next ready := ⟨by decide, rfl⟩
theorem witness_StepRunsDecoded : canStep ready ∧ ready.mem.readMany ready.regs.pc.toNat [0x40#8].length = .ok [0x40#8] ∧
    decodesTo ready.loadExt [0x40#8] .ldBB 1 := ⟨ready_canStep, rfl, _, rfl, rfl, rfl, rfl⟩
theorem witness_ComposedStep_faulted : (ready.raise .invalidOpcode).fault = some .invalidOpcode := rfl
theorem witness_ComposedStep_ended : ({ ready with endPc := some 0x0100#16 } : State).fault = none ∧
    ({ ready with endPc := some 0x0100#16 } : State).endPc = some ready.regs.pc := ⟨rfl, rfl⟩
theorem witness_ComposedStep_ok : canStep ready ∧ runOne ready = .ok 1 1 ready := ⟨ready_canStep, rfl⟩
/-- A machine that is to fail: 0x76 at 0x0100. -/
def failing : State := machine 0x0100#16 false [(0x0100, 0x76#8)]
theorem failing_canStep : canStep failing := by refine ⟨rfl, rfl, ?_⟩; decide
theorem witness_ComposedStep_error : canStep failing ∧ runOne failing = .error .invalidOpcode failing :=
  ⟨failing_canStep, rfl⟩
theorem witness_stepsSafely : ∃ t, stepsSafely ready t := ⟨_, rfl, rfl⟩
theorem witness_UnclassifiedByteAtPc : canStep failing ∧ failing.mem.read failing.regs.pc.toNat = .ok 0x76#8 ∧
    decode failing.loadExt [0x76#8] = .error .invalidOpcode := ⟨failing_canStep, rfl, rfl⟩
/-- A machine whose next instruction runs off the top of memory. -/
def atTop : State := machine 0xFFFF#16 true [(0xFFFF, 0x3E#8)]
theorem atTop_canStep : canStep atTop := by refine ⟨rfl, rfl, ?_⟩; decide
theorem witness_TrailingFetch : canStep atTop ∧ atTop.mem.read atTop.regs.pc.toNat = .ok 0x3E#8 ∧
    decode atTop.loadExt [0x3E#8] = .needMoreBytes 1 ∧ 0x10000 ≤ atTop.regs.pc.toNat + 1 :=
  ⟨atTop_canStep, rfl, rfl, by decide⟩
theorem witness_OnlyReachableErrors : runOne failing = .error .invalidOpcode failing ∧
    runOne atTop = .error (.outOfBounds 0x10000) atTop := ⟨rfl, rfl⟩
theorem witness_Failure : step failing = .next (failedWith .invalidOpcode failing) := rfl
theorem witness_FaultedMachine : (failedWith .invalidOpcode failing).fault = some .invalidOpcode ∧
    ∃ t, step ready = .next t := ⟨rfl, _, rfl⟩
theorem witness_phase_ready : ready.phase = .ready ∧ ready.endPc = none := ⟨rfl, rfl⟩
/-- `LD (HL),A` at 0xFFFF with HL the next address, 0x0000. -/
def selfModifying : State := having (having (machine 0xFFFF#16 false [(0xFFFF, 0x77#8)]) .hl 0x0000#16) .a 0x78#16
theorem witness_StoredByteIsNextFetch : canStep selfModifying ∧ selfModifying.mem.wf = true ∧
    selfModifying.mem.read selfModifying.regs.pc.toNat = .ok (0x70#8 ||| Reg8.a.code.setWidth 8) ∧
    selfModifying.regs.read .hl = selfModifying.regs.pc + 1#16 := by
  refine ⟨⟨rfl, rfl, ?_⟩, ?_, rfl, ?_⟩ <;> decide
theorem witness_Launch : (0x1F#8 &&& 0x0F#8 ≠ 0#8) ∧ (0xB0#8 &&& 0x0F#8 = 0#8) ∧ Memory.wf [(0x0100, 0x41#8)] = true := by
  decide
theorem witness_NothingActsDuringACall : (ready.setPhase .needMoreBytes).phase = .needMoreBytes := rfl
theorem witness_Invariant : Inv ready ∧ ∃ t, step ready = .next t := ⟨⟨rfl, rfl, rfl⟩, _, rfl⟩
/-- A host access that moves PC, and the boundary of each clause on memory accesses. -/
theorem witness_HostAccess : Inv ready ∧ (hostAct (.writeReg .pc 0xC000#16) ready).2.regs.pc ≠ ready.regs.pc ∧
    ready.mem.readMany 0xFFFF 1 = .ok [0x00#8] ∧ ready.mem.readMany 0xFFFF 2 = .error (.outOfBounds 0x10000) ∧
    ready.mem.writeMany 0xFFFF [0x00#8] = (ready.mem, none) ∧
    ready.mem.writeMany 0x10000 [0x01#8] = (ready.mem, some (.outOfBounds 0x10000)) :=
  ⟨⟨rfl, rfl, rfl⟩, by decide, rfl, rfl, rfl, rfl⟩
/-- An instruction placed at the top of memory, its last byte at 0xFFFF. -/
theorem witness_HostPlacedInstruction : ready.fault = none ∧ ready.phase = .ready ∧ ready.endPc ≠ some 0xFFFF#16 ∧
    ready.mem.wf = true ∧ Instr.ldBC.wellFormed ready.loadExt = true ∧
    (0xFFFF#16).toNat + (encode .ldBC).length ≤ 0x10000 := by
  refine ⟨rfl, rfl, ?_, ?_, ?_, ?_⟩ <;> decide
/-- 60_exceptions.md R141: what a host access replies. -/
theorem test_hostAct_replies :
    (hostAct (.writeReg .af 0x12FF#16) ready).1 = .done ∧
    (hostAct (.readReg .af) (hostAct (.writeReg .af 0x12FF#16) ready).2).1 = .value 0x12F0#16 ∧
    (hostAct (.readMem 0x0100 1) ready).1 = .bytes [0x40#8] ∧
    (hostAct (.writeMem 0xFFFF [0x01#8, 0x02#8]) ready).1 = .error (.outOfBounds 0x10000) ∧
    (hostAct (.writeMem 0xFFFF [0x01#8, 0x02#8]) ready).2.mem.read 0xFFFF = .ok 0x01#8 :=
  ⟨rfl, rfl, rfl, rfl, rfl⟩
theorem witness_Reachable : Reachable ready := .launch (p := ⟨ready.regs, ready.mem, false, none⟩) rfl

end Sys2Proof.Tests
end

namespace Sys2Proof

/-! SUPPORT. Which instructions the header-`01` rows yield: the base ones (30_encoding.md R66, R71). -/

@[simp] theorem Instr.isBase_ofRegisterRegister (dst src : Reg8) : (Instr.ofRegisterRegister dst src).isBase = true := by
  cases dst <;> cases src <;> rfl

@[simp] theorem Instr.isBase_ofRegisterMemory (dst : Reg8) : (Instr.ofRegisterMemory dst).isBase = true := by
  cases dst <;> rfl

@[simp] theorem Instr.isBase_ofMemoryRegister (src : Reg8) : (Instr.ofMemoryRegister src).isBase = true := by
  cases src <;> rfl

/-- Every row of the 8-bit load family makes a base instruction, whatever bytes trail it. -/
theorem isBase_of_classifyLoad {first second : Operand} {cls : OpClass} (h : classifyLoad first second = some cls)
    (trailing : List Byte) : (cls.make trailing).instr.isBase = true := by
  cases first with
  | memoryViaHL =>
    cases second with
    | memoryViaHL => cases h
    | register src => cases h; exact Instr.isBase_ofMemoryRegister src
  | register dst =>
    cases second with
    | memoryViaHL => cases h; exact Instr.isBase_ofRegisterMemory dst
    | register src => cases h; exact Instr.isBase_ofRegisterRegister dst src

/-- Without `LOAD_EXT` a byte is classified by its header `01` and its two operand fields alone (30_encoding.md R68). -/
theorem classify_base_iff {op : Byte} {cls : OpClass} :
    classify false op = some cls ↔
      opHeader op = 0b01#2 ∧ classifyLoad (operandOf (opFirst op)) (operandOf (opSecond op)) = some cls := by
  simp [classify]

/-- The instruction a class makes exists in the configuration that classified the byte. -/
theorem wellFormed_of_classify {loadExt : Bool} {op : Byte} {cls : OpClass} (h : classify loadExt op = some cls)
    (trailing : List Byte) : (cls.make trailing).instr.wellFormed loadExt = true := by
  cases loadExt with
  | true => rfl
  | false =>
    obtain ⟨-, hload⟩ := classify_base_iff.mp h
    exact isBase_of_classifyLoad hload trailing

/-- Settles O18: a complete decode is the record of a classified byte, and what a class makes is well-formed. -/
theorem decodedInstructionIsWellFormed : Obligations.DecodedInstructionIsWellFormed := by
  intro ext bs d h
  obtain ⟨op, trailing, cls, -, hclass, -, rfl⟩ := decode_complete h
  exact wellFormed_of_classify hclass trailing

end Sys2Proof

namespace Sys2Proof.Machine

/-! SUPPORT. The bytes of a 16-bit value as the spec writes them (`v >> 8`, `v & 0xFF`), and the low nibble of a view. -/

theorem zext16_highByte (v : Word) : zext16 (highByte v) = v >>> 8 := by
  apply BitVec.eq_of_getLsbD_eq
  intro i hi
  by_cases h : i < 8
  · simp [zext16, highByte, hi, h]
  · simp [zext16, highByte, h, BitVec.getLsbD_of_ge v (8 + i) (by omega)]

/-- The mask `0x00FF` keeps the low byte: `v mod 0x100`. -/
theorem zext16_lowByte (v : Word) : zext16 (lowByte v) = v &&& 0x00FF#16 := by
  apply BitVec.eq_of_toNat_eq
  have hmask : v.toNat &&& 255 = v.toNat % 256 := Nat.and_two_pow_sub_one_eq_mod v.toNat 8
  simp [zext16, lowByte, hmask]
  omega

/-- The two masks of a write to F, byte and flags, are one mask of the value written (10_state.md R24). -/
theorem zext16_maskFlags_lowByte (v : Word) : zext16 (maskFlags (lowByte v)) = v &&& 0x00F0#16 := by
  calc zext16 (maskFlags (lowByte v))
      = zext16 (lowByte v) &&& zext16 0xF0#8 := BitVec.setWidth_and
    _ = v &&& (0x00FF#16 &&& 0x00F0#16) := by rw [zext16_lowByte, BitVec.and_assoc]; rfl
    _ = v &&& 0x00F0#16 := rfl

@[simp] theorem lowByte_ushiftRight_eight (v : Word) : lowByte (v >>> 8) = highByte v := by
  rw [← zext16_highByte, lowByte_zext16]

@[simp] theorem lowByte_and_low (v : Word) : lowByte (v &&& 0x00FF#16) = lowByte v := by
  rw [← zext16_lowByte, lowByte_zext16]

theorem toNat_zext16_lt (b : Byte) : (zext16 b).toNat < 0x100 := by
  have := b.isLt
  simp only [zext16, BitVec.toNat_setWidth]
  omega

/-- A mask of eight bits sees only the low byte of a joined pair. -/
theorem joinBytes_and_zext16 (h l mask : Byte) : joinBytes h l &&& zext16 mask = zext16 (l &&& mask) := by
  apply BitVec.eq_of_getLsbD_eq
  intro i hi
  by_cases h8 : i < 8
  · simp [joinBytes, zext16, hi, h8]
  · simp [joinBytes, zext16, BitVec.getLsbD_of_ge mask i (by omega)]

/-- With F[3:0] = 0 the view AF reads bits 3-0 as zero (10_state.md R23). -/
theorem RegFile.read_af_low {rf : RegFile} (h : rf.flagsWf = true) : rf.read .af &&& 0x000F#16 = 0#16 := by
  have hf : rf.f &&& 0x0F#8 = 0#8 := eq_of_beq h
  calc rf.read .af &&& 0x000F#16
      = zext16 (rf.f &&& 0x0F#8) := joinBytes_and_zext16 rf.a rf.f 0x0F#8
    _ = 0#16 := by rw [hf]; rfl

/-! SUPPORT. The Register File: a view write is two byte writes, and what a write leaves. -/

theorem RegFile.write_af (rf : RegFile) (v : Word) :
    rf.write .af v = (rf.write .a (v >>> 8)).write .f (v &&& 0x00FF#16) := by simp [RegFile.write]

theorem RegFile.write_bc (rf : RegFile) (v : Word) :
    rf.write .bc v = (rf.write .b (v >>> 8)).write .c (v &&& 0x00FF#16) := by simp [RegFile.write]

theorem RegFile.write_de (rf : RegFile) (v : Word) :
    rf.write .de v = (rf.write .d (v >>> 8)).write .e (v &&& 0x00FF#16) := by simp [RegFile.write]

theorem RegFile.write_hl (rf : RegFile) (v : Word) :
    rf.write .hl v = (rf.write .h (v >>> 8)).write .l (v &&& 0x00FF#16) := by simp [RegFile.write]

/-- An operand register reads back the low byte of what was written to it (10_state.md R24). -/
theorem RegFile.read_write_reg8 (rf : RegFile) (r : Reg8) (v : Word) :
    (rf.write r.id v).read r.id = v &&& 0x00FF#16 := by
  rw [← zext16_lowByte]
  cases r <;> rfl

/-- A write leaves every cell its id does not name (10_state.md R24, R25, R26). -/
theorem RegFile.read_write_of_notMem {rf : RegFile} {id r : RegId} (v : Word) (hcell : isCell r = true)
    (h : r ∉ cellsOf id) : (rf.write id v).read r = rf.read r := by
  cases r
  case af | bc | de | hl => cases hcell
  all_goals cases id <;> simp [cellsOf] at h <;> rfl

/-- Settles O1: the reads are those of the rules, and AF's low nibble is F's. -/
theorem registerReadByClass : Obligations.RegisterReadByClass := by
  intro rf
  refine ⟨⟨rfl, rfl, rfl, rfl, rfl, rfl, rfl, rfl⟩, ?_, ⟨rfl, rfl⟩, ⟨rfl, rfl, rfl, rfl⟩, RegFile.read_af_low⟩
  intro r hr
  cases r
  case sp | pc | af | bc | de | hl => exact absurd hr (by decide)
  all_goals exact toNat_zext16_lt _

/-- Settles O2: one lemma for the seven operand registers, one mask for F, and the four views as two byte writes. -/
theorem registerWriteByClass : Obligations.RegisterWriteByClass := by
  intro rf v
  refine ⟨?_, zext16_maskFlags_lowByte v, rfl, rfl, rf.write_af v, rf.write_bc v, rf.write_de v, rf.write_hl v⟩
  intro r hr
  have hmap : r ∈ [Reg8.a, .b, .c, .d, .e, .h, .l].map Reg8.id := hr
  obtain ⟨r8, -, rfl⟩ := List.mem_map.mp hmap
  exact rf.read_write_reg8 r8 v

/-- Settles O3: the frame of a register write, and F's invariant over it. -/
theorem registerWriteFrame : Obligations.RegisterWriteFrame :=
  fun _ id _ v => ⟨RegFile.read_write_of_notMem v, RegFile.flagsWf_write id v⟩

/-- Settles O4: a view reads the two bytes written, and each byte of a view reads its half of the value written. -/
theorem viewsAliasTheirBytes : Obligations.ViewsAliasTheirBytes := by
  intro rf h l w
  have hview : joinBytes (lowByte (zext16 h)) (lowByte (zext16 l)) = joinBytes h l := by simp
  have haf : joinBytes (lowByte (zext16 h)) (maskFlags (lowByte (zext16 l))) =
      (zext16 h <<< 8) ||| (zext16 l &&& 0x00F0#16) := by
    rw [← zext16_maskFlags_lowByte, lowByte_zext16]
    rfl
  have hhigh := zext16_highByte w
  have hlow := zext16_lowByte w
  exact ⟨⟨hview, hview, hview, haf⟩,
    hhigh, hlow, hhigh, hlow, hhigh, hlow, hhigh, zext16_maskFlags_lowByte w⟩

/-! SUPPORT. The frame of an instruction, by its kind: the cells, the byte and the rest of the state. -/

theorem Memory.read_set_of_ne {m : Memory} (h : m.wf = true) {a x : Nat} (hne : x ≠ a) (b : Byte) :
    (m.set a b).read x = m.read x := by
  simp [Memory.read, Memory.get_set h, hne]

theorem cellsKeptBut_writeReg (s : State) (id : RegId) (v : Word) : cellsKeptBut (cellsOf id) s (s.writeReg id v) :=
  fun _ hcell h => RegFile.read_write_of_notMem v hcell h

theorem cellsKeptBut_writeReg8 (s : State) (dst : Reg8) (v : Word) : cellsKeptBut [dst.id] s (s.writeReg dst.id v) := by
  have hcells : cellsOf dst.id = [dst.id] := by cases dst <;> rfl
  exact hcells ▸ cellsKeptBut_writeReg s dst.id v

theorem cellsKeptBut_setMem (s : State) (m : Memory) : cellsKeptBut [] s (s.setMem m) :=
  fun _ _ _ => rfl

theorem cellsKeptBut.trans {w w' : List RegId} {s t u : State} (hst : cellsKeptBut w s t) (htu : cellsKeptBut w' t u) :
    cellsKeptBut (w ++ w') s u := by
  intro r hcell h
  obtain ⟨hw, hw'⟩ := not_or.mp (mt List.mem_append.mpr h)
  exact (htu r hcell hw').trans (hst r hcell hw)

/-- A kind changes the cells it writes and no other (10_state.md R29). -/
theorem kindNext_cellsKeptBut (k : Kind) (s : State) : cellsKeptBut (writtenCells k) s (kindNext k s) := by
  cases k
  case loadRegisterFromRegister dst _ | loadRegisterFromMemory dst | loadRegisterFromImmediate dst _ =>
    exact cellsKeptBut_writeReg8 s dst _
  case loadAFromBC | loadAFromDE | loadAFromAbsolute | loadAFromHighC | loadAFromHighImmediate =>
    exact cellsKeptBut_writeReg s .a _
  case loadAFromHLIncrement | loadAFromHLDecrement =>
    exact (cellsKeptBut_writeReg s .a _).trans (cellsKeptBut_writeReg _ .hl _)
  case loadHLIncrementFromA | loadHLDecrementFromA =>
    exact (cellsKeptBut_setMem s _).trans (cellsKeptBut_writeReg _ .hl _)
  all_goals exact cellsKeptBut_setMem s _

/-- A kind leaves the memory or stores one byte, at its store address, which is in range (20_memory.md R45). -/
theorem kindNext_mem_cases (k : Kind) (s : State) :
    (kindNext k s).mem = s.mem ∨
    ∃ a b, storeAddress k s = some a ∧ a < Config.memorySize ∧ (kindNext k s).mem = s.mem.set a b := by
  cases k
  case loadMemoryFromRegister | loadMemoryFromImmediate | loadHLIncrementFromA | loadHLDecrementFromA =>
    exact .inr ⟨_, _, rfl, addrHL_lt s, rfl⟩
  case loadBCFromA => exact .inr ⟨_, _, rfl, addrBC_lt s, rfl⟩
  case loadDEFromA => exact .inr ⟨_, _, rfl, addrDE_lt s, rfl⟩
  case loadAbsoluteFromA nn => exact .inr ⟨_, _, rfl, addrAbs_lt nn, rfl⟩
  case loadHighCFromA => exact .inr ⟨_, _, rfl, addrHighC_lt s, rfl⟩
  case loadHighImmediateFromA n => exact .inr ⟨_, _, rfl, addrHigh_lt n, rfl⟩
  all_goals exact .inl rfl

theorem kindNext_bytesKeptBut (k : Kind) {s : State} (hwf : s.mem.wf = true) :
    bytesKeptBut (storeAddress k s).toList s (kindNext k s) := by
  intro x hx
  rcases kindNext_mem_cases k s with hmem | ⟨a, b, haddr, -, hmem⟩
  · rw [hmem]
  · have hne : x ≠ a := by simpa [haddr] using hx
    rw [hmem, Memory.read_set_of_ne hwf hne]

/-- Every kind keeps the canonical form of the memory. -/
theorem kindNext_wf (k : Kind) {s : State} (hwf : s.mem.wf = true) : (kindNext k s).mem.wf = true := by
  rcases kindNext_mem_cases k s with hmem | ⟨a, b, -, hlt, hmem⟩
  · rwa [hmem]
  · rw [hmem]
    exact Memory.wfFrom_set hwf hlt (Nat.zero_le a) b

theorem kindNext_restKept (k : Kind) (s : State) : restKept s (kindNext k s) := by
  cases k <;> exact ⟨rfl, rfl, rfl, rfl, rfl⟩

/-- Settles O37: an instruction does what its kind does, and each part of the frame is a lemma about the kind. -/
theorem everyInstructionFrame : Obligations.EveryInstructionFrame := by
  intro i s t hwf h
  obtain rfl : kindNext i.kind s = t := by simpa [exec_eq_kindNext] using h
  exact ⟨kindNext_cellsKeptBut i.kind s, kindNext_bytesKeptBut i.kind hwf, kindNext_restKept i.kind s⟩

/-! SUPPORT. F, SP and PC are outside every kind's frame (10_state.md R28, R34; 40_fetch_execute.md R88). -/

theorem Reg8.id_ne_f_sp_pc (r : Reg8) : r.id ≠ .f ∧ r.id ≠ .sp ∧ r.id ≠ .pc := by
  cases r <;> decide

theorem f_sp_pc_notMem_writtenCells (k : Kind) :
    .f ∉ writtenCells k ∧ .sp ∉ writtenCells k ∧ .pc ∉ writtenCells k := by
  cases k
  case loadRegisterFromRegister dst _ | loadRegisterFromMemory dst | loadRegisterFromImmediate dst _ =>
    simpa [writtenCells, eq_comm] using Reg8.id_ne_f_sp_pc dst
  all_goals simp [writtenCells]

theorem kindNext_f_sp_pc (k : Kind) (s : State) :
    (kindNext k s).regs.f = s.regs.f ∧ (kindNext k s).regs.sp = s.regs.sp ∧ (kindNext k s).regs.pc = s.regs.pc := by
  have hkept := kindNext_cellsKeptBut k s
  obtain ⟨hf, hsp, hpc⟩ := f_sp_pc_notMem_writtenCells k
  exact ⟨(zext16_inj _ _).mp (hkept .f rfl hf), hkept .sp rfl hsp, hkept .pc rfl hpc⟩

/-- Settles O50: a step runs one kind, outside whose frame F, SP and the parameters lie, and then writes PC and the
output, or it records an error. -/
theorem stepKeepsFSpAndParameters : Obligations.StepKeepsFSpAndParameters := by
  intro s t h
  obtain ⟨-, hready, -⟩ := step_next_premise h
  rcases step_cases hready h with ⟨d, -, rfl, -, -⟩ | rfl | ⟨-, rfl⟩
  · obtain ⟨hphase, -, -, hext, hend⟩ := kindNext_restKept d.instr.kind s
    obtain ⟨hf, hsp, -⟩ := kindNext_f_sp_pc d.instr.kind s
    exact ⟨hf, hsp, hext, hend, hphase.trans hready⟩
  · exact ⟨rfl, rfl, rfl, rfl, hready⟩
  · exact ⟨rfl, rfl, rfl, rfl, hready⟩

/-- Every step keeps the canonical form of the memory: it stores at most one byte, in range. -/
theorem step_keeps_wf {s t : State} (hwf : s.mem.wf = true) (h : step s = .next t) : t.mem.wf = true := by
  obtain ⟨-, hready, -⟩ := step_next_premise h
  rcases step_cases hready h with ⟨d, -, rfl, -, -⟩ | rfl | ⟨-, rfl⟩
  · exact kindNext_wf d.instr.kind hwf
  · exact hwf
  · exact hwf

/-- Settles O55: a step leaves F, keeps the memory canonical and ends ready. -/
theorem stepKeepsInvariant : Obligations.StepKeepsInvariant := by
  intro s t hinv h
  obtain ⟨hflags, hwf, -⟩ := hinv
  obtain ⟨hf, -, -, -, hready⟩ := stepKeepsFSpAndParameters s t h
  have hflags' : t.regs.flagsWf = true := by rw [RegFile.flagsWf, hf]; exact hflags
  exact ⟨hflags', step_keeps_wf hwf h, hready⟩

end Sys2Proof.Machine

namespace Sys2Proof.Machine

/-! SUPPORT. The bounds of a single-byte access, and a read of the address just written (20_memory.md R41, R42). -/

theorem Memory.read_of_ge (m : Memory) {a : Nat} (h : Config.memorySize ≤ a) : m.read a = .error (.outOfBounds a) :=
  if_neg (Nat.not_lt.mpr h)

theorem Memory.write_of_ge (m : Memory) {a : Nat} (h : Config.memorySize ≤ a) (b : Byte) :
    m.write a b = .error (.outOfBounds a) :=
  if_neg (Nat.not_lt.mpr h)

theorem Memory.read_set_same {m : Memory} (hwf : m.wf = true) {a : Nat} (h : a < Config.memorySize) (b : Byte) :
    (m.set a b).read a = .ok b := by
  simp [Memory.read_of_lt _ h, Memory.get_set hwf]

theorem hostAct_readMem_state (a n : Nat) (s : State) : (hostAct (.readMem a n) s).2 = s := by
  rcases hostAct_cases (.readMem a n) s with h | ⟨_, _, hact, -⟩ | ⟨_, _, hact, -⟩
  · exact h
  · cases hact
  · cases hact

/-- Settles O5: the bounds check of a read, and that no host read writes the state. -/
theorem singleByteReadIsBoundsChecked : Obligations.SingleByteReadIsBoundsChecked :=
  fun s a => ⟨fun h => ⟨_, s.mem.read_of_lt h⟩, s.mem.read_of_ge, hostAct_readMem_state a 1 s⟩

/-! SUPPORT. A multi-byte access, one byte at a time (20_memory.md R43, R44). -/

theorem Memory.readMany_succ_of_lt (m : Memory) {a : Nat} (h : a < Config.memorySize) (n : Nat) :
    m.readMany a (n + 1) = (m.readMany (a + 1) n).map (m.get a :: ·) := by
  simp only [Memory.readMany, m.read_of_lt h]
  cases m.readMany (a + 1) n <;> rfl

theorem Memory.readMany_succ_of_ge (m : Memory) {a : Nat} (h : Config.memorySize ≤ a) (n : Nat) :
    m.readMany a (n + 1) = .error (.outOfBounds a) := by
  simp only [Memory.readMany, m.read_of_ge h]

theorem Memory.writeMany_cons_of_lt (m : Memory) {a : Nat} (h : a < Config.memorySize) (b : Byte) (bs : List Byte) :
    m.writeMany a (b :: bs) = (m.set a b).writeMany (a + 1) bs := by
  simp only [Memory.writeMany, m.write_of_lt h]

theorem Memory.writeMany_cons_of_ge (m : Memory) {a : Nat} (h : Config.memorySize ≤ a) (b : Byte) (bs : List Byte) :
    m.writeMany a (b :: bs) = (m, some (.outOfBounds a)) := by
  simp only [Memory.writeMany, m.write_of_ge h]

/-- Settles O6: in range the write is `Memory.set`, whose reads are known; out of range nothing is written. -/
theorem singleByteWriteStoresOneByte : Obligations.SingleByteWriteStoresOneByte := by
  intro m a b hwf
  refine ⟨fun h => ?_, fun h => ⟨m.write_of_ge h b, m.writeMany_cons_of_ge h b []⟩⟩
  exact ⟨m.set a b, m.write_of_lt h b, Memory.read_set_same hwf h b,
    fun x hne => Memory.read_set_of_ne hwf hne b, m.writeMany_cons_of_lt h b []⟩

/-- A read inside the Address Space gives the bytes of its addresses, in order. -/
theorem Memory.readMany_of_le (m : Memory) {a n : Nat} (h : a + n ≤ Config.memorySize) :
    m.readMany a n = .ok ((List.range' a n).map m.get) := by
  induction n generalizing a with
  | zero => rfl
  | succ n ih =>
    rw [m.readMany_succ_of_lt (by omega), ih (by omega)]
    rfl

/-- A read that leaves the Address Space gives the first address out of range and no bytes. -/
theorem Memory.readMany_of_gt (m : Memory) {a n : Nat} (hn : 0 < n) (h : Config.memorySize < a + n) :
    m.readMany a n = .error (.outOfBounds (max a Config.memorySize)) := by
  induction n generalizing a with
  | zero => cases hn
  | succ n ih =>
    by_cases ha : a < Config.memorySize
    · have hmax : max (a + 1) Config.memorySize = max a Config.memorySize := by omega
      rw [m.readMany_succ_of_lt ha, ih (by omega) (by omega), hmax]
      rfl
    · have hge : Config.memorySize ≤ a := Nat.not_lt.mp ha
      rw [m.readMany_succ_of_ge hge, Nat.max_eq_left hge]

/-- Settles O7: the two closed forms of a multi-byte read, by whether its range ends inside the Address Space. -/
theorem multiByteReadIsAllOrNothing : Obligations.MultiByteReadIsAllOrNothing := by
  intro m a n
  refine ⟨fun hn (h : Config.memorySize ≤ a + n - 1) => m.readMany_of_gt hn (by omega), ?_,
    fun (h : a + n ≤ Config.memorySize) => ⟨_, m.readMany_of_le h, by simp, fun i hi => ?_⟩⟩
  · rintro rfl
    rfl
  · rw [m.read_of_lt (by omega)]
    simp [hi]

/-- After a multi-byte write every address of the range that is in bounds holds its byte; no other address changes. -/
theorem Memory.read_writeMany {m : Memory} (hwf : m.wf = true) (a : Nat) (bs : List Byte) (x : Nat) :
    (m.writeMany a bs).1.read x =
      if a ≤ x ∧ x < a + bs.length ∧ x < Config.memorySize then .ok (bs.getD (x - a) 0) else m.read x := by
  induction bs generalizing m a with
  | nil =>
    rw [if_neg (by simp only [List.length_nil]; omega)]
    rfl
  | cons b bs ih =>
    rw [List.length_cons]
    by_cases ha : a < Config.memorySize
    · rw [m.writeMany_cons_of_lt ha, ih (Memory.wfFrom_set hwf ha (Nat.zero_le a) b)]
      by_cases hx : x = a
      · subst hx
        rw [if_neg (by omega), if_pos (by omega), Memory.read_set_same hwf ha, Nat.sub_self]
        rfl
      · have hrange : (a + 1 ≤ x ∧ x < a + 1 + bs.length ∧ x < Config.memorySize) ↔
            (a ≤ x ∧ x < a + (bs.length + 1) ∧ x < Config.memorySize) := by omega
        simp only [hrange, Memory.read_set_of_ne hwf hx]
        split
        · have hindex : x - a = x - (a + 1) + 1 := by omega
          rw [hindex, List.getD_cons_succ]
        · rfl
    · rw [m.writeMany_cons_of_ge (Nat.not_lt.mp ha), if_neg (by omega)]

/-- A multi-byte write reports the first address of its range out of bounds, if there is one. -/
theorem Memory.writeMany_error (m : Memory) (a : Nat) (bs : List Byte) :
    (m.writeMany a bs).2 =
      if bs ≠ [] ∧ Config.memorySize < a + bs.length then some (.outOfBounds (max a Config.memorySize)) else none := by
  induction bs generalizing m a with
  | nil => rfl
  | cons b bs ih =>
    by_cases ha : a < Config.memorySize
    · have hmax : max (a + 1) Config.memorySize = max a Config.memorySize := by omega
      have hrange : (bs ≠ [] ∧ Config.memorySize < a + 1 + bs.length) ↔
          (b :: bs ≠ [] ∧ Config.memorySize < a + (b :: bs).length) := by
        simp only [← List.length_pos_iff, List.length_cons]
        omega
      rw [m.writeMany_cons_of_lt ha, ih, hmax]
      simp only [hrange]
    · have hge : Config.memorySize ≤ a := Nat.not_lt.mp ha
      have hpast : Config.memorySize < a + (b :: bs).length := by rw [List.length_cons]; omega
      rw [m.writeMany_cons_of_ge hge, if_pos ⟨List.cons_ne_nil b bs, hpast⟩, Nat.max_eq_left hge]

/-- Settles O8: the bytes and the error of a multi-byte write. -/
theorem multiByteWriteKeepsPrefix : Obligations.MultiByteWriteKeepsPrefix :=
  fun m a bs hwf => ⟨Memory.read_writeMany hwf a bs, m.writeMany_error a bs⟩

/-! SUPPORT. The canonical form is unique: its head is the least address whose byte an unlisted one would not give. -/

theorem Memory.wfFrom_cons_iff {lo k : Nat} {v : Byte} {m : Memory} :
    Memory.wfFrom lo ((k, v) :: m) = true ↔
      lo ≤ k ∧ k < Config.memorySize ∧ v ≠ Memory.unlisted ∧ Memory.wfFrom (k + 1) m = true := by
  simp only [Memory.wfFrom, Bool.and_eq_true, decide_eq_true_eq, and_assoc]

@[simp] theorem Memory.get_cons_same (k : Nat) (v : Byte) (m : Memory) : Memory.get ((k, v) :: m) k = v := by
  simp [Memory.get]

theorem Memory.get_cons_of_ne {k a : Nat} (h : a ≠ k) (v : Byte) (m : Memory) :
    Memory.get ((k, v) :: m) a = Memory.get m a := by
  simp [Memory.get, h]

/-- Nothing above the Address Space is listed in a canonical memory. -/
theorem Memory.get_of_ge {m : Memory} {lo a : Nat} (hwf : Memory.wfFrom lo m = true) (ha : Config.memorySize ≤ a) :
    Memory.get m a = Memory.unlisted := by
  induction m generalizing lo with
  | nil => rfl
  | cons e m ih =>
    obtain ⟨k, v⟩ := e
    obtain ⟨-, hk, -, htail⟩ := Memory.wfFrom_cons_iff.mp hwf
    rw [Memory.get_cons_of_ne (by omega), ih htail]

theorem Memory.head_le_of_get_ne {lo k a : Nat} {v : Byte} {m : Memory}
    (hwf : Memory.wfFrom lo ((k, v) :: m) = true) (h : Memory.get ((k, v) :: m) a ≠ Memory.unlisted) : k ≤ a := by
  obtain ⟨-, hk, hv, htail⟩ := Memory.wfFrom_cons_iff.mp hwf
  have hfrom : Memory.wfFrom k ((k, v) :: m) = true := Memory.wfFrom_cons_iff.mpr ⟨Nat.le_refl k, hk, hv, htail⟩
  exact Nat.not_lt.mp (mt (Memory.get_of_lt hfrom) h)

theorem Memory.eq_nil_of_get {lo : Nat} {m : Memory} (hwf : Memory.wfFrom lo m = true)
    (h : ∀ a, Memory.get m a = Memory.unlisted) : m = [] := by
  cases m with
  | nil => rfl
  | cons e m =>
    obtain ⟨k, v⟩ := e
    obtain ⟨-, -, hv, -⟩ := Memory.wfFrom_cons_iff.mp hwf
    exact absurd (by simpa using h k) hv

theorem Memory.eq_of_get_eq {lo lo' : Nat} {m m' : Memory} (hwf : Memory.wfFrom lo m = true)
    (hwf' : Memory.wfFrom lo' m' = true) (h : ∀ a, Memory.get m a = Memory.get m' a) : m = m' := by
  induction m generalizing m' lo lo' with
  | nil => exact (Memory.eq_nil_of_get hwf' fun a => (h a).symm).symm
  | cons e m ih =>
    obtain ⟨k, v⟩ := e
    cases m' with
    | nil => exact Memory.eq_nil_of_get hwf h
    | cons e' m' =>
      obtain ⟨k', v'⟩ := e'
      obtain ⟨-, -, hv, htail⟩ := Memory.wfFrom_cons_iff.mp hwf
      obtain ⟨-, -, hv', htail'⟩ := Memory.wfFrom_cons_iff.mp hwf'
      have hle : k ≤ k' := Memory.head_le_of_get_ne hwf (by rw [h k', Memory.get_cons_same]; exact hv')
      have hge : k' ≤ k := Memory.head_le_of_get_ne hwf' (by rw [← h k, Memory.get_cons_same]; exact hv)
      obtain rfl : k = k' := Nat.le_antisymm hle hge
      obtain rfl : v = v' := by simpa using h k
      have htails : ∀ a, Memory.get m a = Memory.get m' a := by
        intro a
        by_cases ha : a = k
        · rw [Memory.get_of_lt htail (by omega), Memory.get_of_lt htail' (by omega)]
        · simpa only [Memory.get_cons_of_ne ha] using h a
      rw [ih htail htail' htails]

/-- Settles O9: reads determine the bytes of the Address Space, nothing above it is listed, and the bytes determine a
canonical list. -/
theorem canonicalMemoriesWithEqualBytesAreEqual : Obligations.CanonicalMemoriesWithEqualBytesAreEqual := by
  intro m m' hwf hwf' h
  refine Memory.eq_of_get_eq hwf hwf' fun a => ?_
  by_cases ha : a < Config.memorySize
  · have hread := h a
    rw [m.read_of_lt ha, m'.read_of_lt ha] at hread
    exact Except.ok.inj hread
  · have hge := Nat.not_lt.mp ha
    rw [Memory.get_of_ge hwf hge, Memory.get_of_ge hwf' hge]

/-! SUPPORT. A step whose one byte at PC is a whole instruction, and the byte of `LD (HL),s` (20_memory.md R59). -/

/-- Phase 1 alone: a byte at PC that is a whole instruction is fetched without a second read. -/
theorem fetch_of_decode_byte {s : State} {b : Byte} {d : Decoded} (hread : s.mem.read (s.regs.read .pc).toNat = .ok b)
    (hdec : decode s.loadExt [b] = .complete d) : fetch s = .decoded d s := by
  simp only [fetch, hread, hdec, endOfFetch]

/-- A fetched instruction makes the step its kind's next state, with PC advanced and the output set. -/
theorem step_of_fetch {s : State} {d : Decoded} (hcan : canStep s) (hfetch : fetch s = .decoded d s) :
    step s = .next (((kindNext d.instr.kind s).advancePc d.length).setResult (.ok d.cycles d.length)) := by
  obtain ⟨hfault, hready, hend⟩ := hcan
  simp [step, composedStep, runOne, executeDecoded, hfault, hready, hend, hfetch, exec_eq_kindNext]

/-- 30_encoding.md R66: the byte `01 110 sss` is `LD (HL),s`, one byte long and two cycles. -/
theorem decode_loadMemoryFromRegister (loadExt : Bool) (src : Reg8) :
    ∃ d, decode loadExt [0x70#8 ||| src.code.setWidth 8] = .complete d ∧
      d.instr.kind = .loadMemoryFromRegister src ∧ d.length = 1 := by
  have hbyte : 0x70#8 ||| src.code.setWidth 8 = opByte 0b01#2 0b110#3 src.code := rfl
  have hclass : classify loadExt (opByte 0b01#2 0b110#3 src.code) =
      some ⟨1, 2, fun _ => .loadMemoryFromRegister src⟩ := by
    have hsentinel : operandOf 0b110#3 = .memoryViaHL := rfl
    simp [classify, hsentinel, classifyLoad]
  rw [hbyte]
  exact ⟨_, decode_whole hclass (trailing := []) rfl, Kind.kind_instr (.loadMemoryFromRegister src), rfl⟩

/-- Settles O51: the step stores at HL and advances PC by 1, to HL; the read there is the read after the write. -/
theorem storedByteIsNextFetch : Obligations.StoredByteIsNextFetch := by
  intro s src hcan hwf hread hHL
  obtain ⟨d, hdec, hkind, hlen⟩ := decode_loadMemoryFromRegister s.loadExt src
  have hstep := step_of_fetch hcan (fetch_of_decode_byte hread hdec)
  rw [hkind, hlen] at hstep
  have hpc : s.regs.pc + BitVec.ofNat 16 1 = s.regs.read .hl := hHL.symm
  have hbyte : (s.regs.read src.id).setWidth 8 = lowByte (s.regs.read src.id) :=
    BitVec.setWidth_eq_extractLsb' (by decide)
  obtain ⟨hfault, -, -⟩ := hcan
  refine ⟨_, hstep, hfault, hpc, ?_⟩
  change (s.mem.set (addrHL s) (lowByte (s.regs.read src.id))).read (s.regs.pc + BitVec.ofNat 16 1).toNat = _
  rw [hpc, hbyte]
  exact Memory.read_set_same hwf (addrHL_lt s) _

/-- Settles O53: in *need-more-bytes* both the host access and the call look at the phase first. -/
theorem nothingActsDuringACall : Obligations.NothingActsDuringACall := by
  intro s act hphase
  exact ⟨by simp only [hostAct, hphase], by simp only [runOne, hphase]⟩

end Sys2Proof.Machine

namespace Sys2Proof

/-! SUPPORT. How a byte is classified: by its operand fields under header `01`, by a row of `EXT_TABLE` under another
(30_encoding.md R66, R68, R72). -/

/-- Header `01` is classified by its two fields, in both configurations. -/
theorem classify_of_header_load {op : Byte} (h : opHeader op = 0b01#2) (loadExt : Bool) :
    classify loadExt op = classifyLoad (operandOf (opFirst op)) (operandOf (opSecond op)) :=
  if_pos h

theorem classify_of_header_ne {op : Byte} (h : opHeader op ≠ 0b01#2) (loadExt : Bool) :
    classify loadExt op =
      if loadExt then (extTable.find? (fun row => row.opcode == op)).map ExtRow.cls else none :=
  if_neg h

theorem classify_opByte_load (loadExt : Bool) (first second : Operand) :
    classify loadExt (opByte 0b01#2 first.code second.code) = classifyLoad first second := by
  rw [classify_of_header_load (by simp), opFirst_opByte, opSecond_opByte, operandOf_code, operandOf_code]

/-- The class of a byte is that of its two operands, or that of its row in `EXT_TABLE`. -/
theorem classify_cases {loadExt : Bool} {op : Byte} {cls : OpClass} (h : classify loadExt op = some cls) :
    (opHeader op = 0b01#2 ∧ classifyLoad (operandOf (opFirst op)) (operandOf (opSecond op)) = some cls) ∨
    (loadExt = true ∧ ∃ row ∈ extTable, row.opcode = op ∧ row.cls = cls) := by
  by_cases hheader : opHeader op = 0b01#2
  · exact .inl ⟨hheader, classify_of_header_load hheader loadExt ▸ h⟩
  · rw [classify_of_header_ne hheader] at h
    cases loadExt with
    | false => cases h
    | true =>
      obtain ⟨row, hfind, hcls⟩ := Option.map_eq_some_iff.mp h
      exact .inr ⟨rfl, row, List.mem_of_find?_eq_some hfind, by simpa using List.find?_some hfind, hcls⟩

/-- `LOAD_EXT` adds classes and changes none. -/
theorem classify_true_of_classify {loadExt : Bool} {op : Byte} {cls : OpClass} (h : classify loadExt op = some cls) :
    classify true op = some cls := by
  cases loadExt with
  | true => exact h
  | false =>
    obtain ⟨hheader, hload⟩ := classify_base_iff.mp h
    rw [classify_of_header_load hheader, hload]

/-! SUPPORT. The encoder undoes the decoder: the bytes of what a class makes (30_encoding.md R77). -/

@[simp] theorem encode_instr (k : Kind) : encode k.instr = k.encode := by
  rw [encode, Kind.kind_instr]

@[simp] theorem trailingWord_wordBytes (nn : Word) : trailingWord (wordBytes nn) = nn :=
  Machine.joinBytes_highByte_lowByte nn

@[simp] theorem wordBytes_trailingWord (l h : Byte) : wordBytes (trailingWord [l, h]) = [l, h] := by
  calc wordBytes (trailingWord [l, h])
      = [Machine.lowByte (joinBytes h l), Machine.highByte (joinBytes h l)] := rfl
    _ = [l, h] := by rw [Machine.lowByte_joinBytes, Machine.highByte_joinBytes]

/-- A class of the load family: one byte, 1 or 2 cycles, and a kind that encodes as the two operands' codes. -/
theorem classifyLoad_eq_some {first second : Operand} {cls : OpClass} (h : classifyLoad first second = some cls) :
    cls.length = 1 ∧ (1 ≤ cls.cycles ∧ cls.cycles ≤ 2) ∧
      ∀ trailing, (cls.make trailing).encode = [opByte 0b01#2 first.code second.code] := by
  have hone : 1 ≤ 1 ∧ 1 ≤ 2 := by decide
  have htwo : 1 ≤ 2 ∧ 2 ≤ 2 := by decide
  cases first with
  | memoryViaHL =>
    cases second with
    | memoryViaHL => cases h
    | register src => cases h; exact ⟨rfl, htwo, fun _ => rfl⟩
  | register dst =>
    cases second with
    | memoryViaHL => cases h; exact ⟨rfl, htwo, fun _ => rfl⟩
    | register src => cases h; exact ⟨rfl, hone, fun _ => rfl⟩

/-! SUPPORT. The rows of `EXT_TABLE` by their length (42_load_extension.md R107). -/

theorem extRow_encode_one : ∀ row ∈ extTable, row.cls.length = 1 → (row.cls.make []).encode = [row.opcode] := by
  decide

theorem extRow_encode_two (n : Byte) :
    ∀ row ∈ extTable, row.cls.length = 2 → (row.cls.make [n]).encode = [row.opcode, n] := by
  simp [extTable, extTable.extTableLow, extTable.extTableMid, extTable.extTableHigh, Kind.encode, Reg8.code, opByte,
    trailingByte]

theorem extRow_encode_three (l h : Byte) :
    ∀ row ∈ extTable, row.cls.length = 3 → (row.cls.make [l, h]).encode = [row.opcode, l, h] := by
  simp [extTable, extTable.extTableLow, extTable.extTableMid, extTable.extTableHigh, Kind.encode, opByte]

/-- A class applied to its own number of trailing bytes makes a kind whose encoding is the opcode byte and they. -/
theorem encode_make_of_classify {loadExt : Bool} {op : Byte} {cls : OpClass} (h : classify loadExt op = some cls)
    {trailing : List Byte} (hlen : 1 + trailing.length = cls.length) : (cls.make trailing).encode = op :: trailing := by
  obtain ⟨-, hmax, -⟩ := classify_length h
  rcases classify_cases h with ⟨hheader, hload⟩ | ⟨-, row, hrow, rfl, rfl⟩
  · obtain ⟨hone, -, hbytes⟩ := classifyLoad_eq_some hload
    obtain rfl : trailing = [] := List.length_eq_zero_iff.mp (by omega)
    rw [hbytes, code_operandOf, code_operandOf, ← hheader, opByte_fields]
  · match trailing with
    | [] => exact extRow_encode_one row hrow hlen.symm
    | [n] => exact extRow_encode_two n row hrow hlen.symm
    | [l, h] => exact extRow_encode_three l h row hrow hlen.symm
    | _ :: _ :: _ :: _ =>
      simp only [List.length_cons, Config.maxLength] at hlen hmax
      omega

/-- Settles O20: the formulas are the encoder's with the header put in, and a complete decode is the record of a class
applied to its own number of trailing bytes. -/
theorem encodeOfDecode : Obligations.EncodeOfDecode := by
  refine ⟨fun dst src => ⟨?_, ?_, ?_⟩, fun ext bs d h => ?_⟩
  · exact encode_instr (.loadRegisterFromRegister dst src)
  · exact encode_instr (.loadRegisterFromMemory dst)
  · exact encode_instr (.loadMemoryFromRegister src)
  · obtain ⟨op, trailing, cls, rfl, hclass, hlen, rfl⟩ := decode_complete h
    have hencode : encode (cls.make trailing).instr = op :: trailing := by
      rw [encode_instr, encode_make_of_classify hclass hlen]
    exact ⟨hencode, opByte_fields op⟩

/-! SUPPORT. The decoder undoes the encoder: the class of the byte a kind's encoding begins with. -/

@[simp] theorem Instr.isBase_ofRegisterImmediate (dst : Reg8) (n : Byte) :
    (Instr.ofRegisterImmediate dst n).isBase = false := by
  cases dst <;> rfl

/-- An instruction that is not one of the base exists only with `LOAD_EXT`. -/
theorem loadExt_of_wellFormed {loadExt : Bool} {i : Instr} (hwf : i.wellFormed loadExt = true)
    (hbase : i.isBase = false) : loadExt = true := by
  simpa [Instr.wellFormed, hbase] using hwf

/-- The first byte of a kind's encoding has a class that makes the kind from the rest, and counts them all. -/
def Kind.IsClassified (loadExt : Bool) (k : Kind) : Prop :=
  ∃ op trailing cls, k.encode = op :: trailing ∧ classify loadExt op = some cls ∧
    1 + trailing.length = cls.length ∧ cls.make trailing = k

theorem Kind.isClassified_registerImmediate (dst : Reg8) (n : Byte) :
    (Kind.loadRegisterFromImmediate dst n).IsClassified true := by
  cases dst <;> exact ⟨_, [n], _, rfl, rfl, rfl, rfl⟩

theorem Kind.isClassified_of_wellFormed {loadExt : Bool} {k : Kind} (hwf : k.instr.wellFormed loadExt = true) :
    k.IsClassified loadExt := by
  cases k
  case loadRegisterFromRegister dst src =>
    exact ⟨_, [], _, rfl, classify_opByte_load loadExt (.register dst) (.register src), rfl, rfl⟩
  case loadRegisterFromMemory dst =>
    exact ⟨_, [], _, rfl, classify_opByte_load loadExt (.register dst) .memoryViaHL, rfl, rfl⟩
  case loadMemoryFromRegister src =>
    exact ⟨_, [], _, rfl, classify_opByte_load loadExt .memoryViaHL (.register src), rfl, rfl⟩
  case loadRegisterFromImmediate dst n =>
    obtain rfl := loadExt_of_wellFormed hwf (Instr.isBase_ofRegisterImmediate dst n)
    exact Kind.isClassified_registerImmediate dst n
  case loadMemoryFromImmediate n | loadAFromHighImmediate n | loadHighImmediateFromA n =>
    obtain rfl := loadExt_of_wellFormed hwf rfl
    exact ⟨_, [n], _, rfl, rfl, rfl, rfl⟩
  case loadAFromAbsolute nn | loadAbsoluteFromA nn =>
    obtain rfl := loadExt_of_wellFormed hwf rfl
    exact ⟨_, wordBytes nn, _, rfl, rfl, rfl, congrArg _ (trailingWord_wordBytes nn)⟩
  all_goals
    obtain rfl := loadExt_of_wellFormed hwf rfl
    exact ⟨_, [], _, rfl, rfl, rfl, rfl⟩

/-- Settles O19: the encoding of a well-formed instruction's kind is a classified byte with exactly its trailing
bytes. -/
theorem decodeOfEncode : Obligations.DecodeOfEncode := by
  intro ext i hwf
  obtain ⟨op, trailing, cls, hbytes, hclass, hlen, hmake⟩ :=
    Kind.isClassified_of_wellFormed (k := i.kind) (by rwa [Instr.instr_kind])
  have hencode : encode i = op :: trailing := hbytes
  rw [hencode]
  refine ⟨_, decode_whole hclass hlen, ?_, ?_⟩
  · change (cls.make trailing).instr = i
    rw [hmake, Instr.instr_kind]
  · change cls.length = (op :: trailing).length
    rw [← hlen, List.length_cons, Nat.add_comm]

/-! SUPPORT. When the decoder refuses a byte, when it asks for more, and how many bytes and cycles a class has. -/

/-- InvalidOpcode is the answer for an unclassified byte and for no other, whatever follows it. -/
theorem decode_cons_eq_invalidOpcode_iff {loadExt : Bool} {op : Byte} (trailing : List Byte) :
    decode loadExt (op :: trailing) = .error .invalidOpcode ↔ classify loadExt op = none := by
  cases hclass : classify loadExt op with
  | none => simp [decode_unclassified hclass]
  | some cls =>
    rw [decode_cons hclass]
    split
    · simp
    · split <;> simp

/-- What the decoder asks for is what the class of the first byte still misses. -/
theorem decode_needMoreBytes {loadExt : Bool} {bs : List Byte} {n : Nat} (h : decode loadExt bs = .needMoreBytes n) :
    ∃ op trailing cls, bs = op :: trailing ∧ classify loadExt op = some cls ∧
      1 + trailing.length < cls.length ∧ n = cls.length - (1 + trailing.length) := by
  cases bs with
  | nil => simp [decode] at h
  | cons op trailing =>
    cases hclass : classify loadExt op with
    | none => simp [decode_unclassified hclass] at h
    | some cls =>
      rw [decode_cons hclass] at h
      split at h
      next hshort => cases h; exact ⟨op, trailing, cls, rfl, hclass, hshort, rfl⟩
      next => split at h <;> cases h

theorem classifyLoad_eq_none_iff {first second : Operand} :
    classifyLoad first second = none ↔ first = .memoryViaHL ∧ second = .memoryViaHL := by
  cases first <;> cases second <;> simp [classifyLoad]

/-- Every class costs 1 to 4 cycles (40_fetch_execute.md R93). -/
theorem classify_cycles {loadExt : Bool} {op : Byte} {cls : OpClass} (h : classify loadExt op = some cls) :
    1 ≤ cls.cycles ∧ cls.cycles ≤ 4 := by
  rcases classify_cases h with ⟨-, hload⟩ | ⟨-, row, hrow, -, rfl⟩
  · obtain ⟨-, ⟨hmin, hmax⟩, -⟩ := classifyLoad_eq_some hload
    exact ⟨hmin, by omega⟩
  · have hrows : ∀ row ∈ extTable, 1 ≤ row.cls.cycles ∧ row.cls.cycles ≤ 4 := by decide
    exact hrows row hrow

theorem operandOf_eq_memoryViaHL_iff {code : BitVec 3} : operandOf code = .memoryViaHL ↔ code = 0b110#3 := by
  constructor
  · intro h
    rw [← code_operandOf code, h]
    rfl
  · rintro rfl
    rfl

theorem opHeader_eq_load_iff {op : Byte} : opHeader op = 0b01#2 ↔ 0x40 ≤ op.toNat ∧ op.toNat ≤ 0x7F := by
  revert op; decide

/-- The one unclassified byte of header `01` is `01 110 110` (30_encoding.md R66). -/
theorem classify_load_eq_none_iff {op : Byte} (hheader : opHeader op = 0b01#2) (loadExt : Bool) :
    classify loadExt op = none ↔ op = 0x76#8 := by
  rw [classify_of_header_load hheader, classifyLoad_eq_none_iff, operandOf_eq_memoryViaHL_iff,
    operandOf_eq_memoryViaHL_iff]
  constructor
  · rintro ⟨hfirst, hsecond⟩
    rw [← opByte_fields op, hheader, hfirst, hsecond]
    rfl
  · rintro rfl
    decide

/-- Every valid byte of header `01` has a class of length 1. -/
theorem classify_load_length {op : Byte} (hheader : opHeader op = 0b01#2) (hvalid : op ≠ 0x76#8) (loadExt : Bool) :
    ∃ cls, classify loadExt op = some cls ∧ cls.length = 1 := by
  obtain ⟨cls, hclass⟩ := Option.ne_none_iff_exists'.mp (mt (classify_load_eq_none_iff hheader loadExt).mp hvalid)
  obtain ⟨hone, -, -⟩ := classifyLoad_eq_some (classify_of_header_load hheader loadExt ▸ hclass)
  exact ⟨cls, hclass, hone⟩

/-- A class of length 1 gives the decode of its byte alone. -/
theorem decodesTo_of_classify {loadExt : Bool} {op : Byte} {cycles : Nat} {make : List Byte → Kind}
    (h : classify loadExt op = some ⟨1, cycles, make⟩) :
    Machine.decodesTo loadExt [op] (make []).instr cycles :=
  ⟨_, decode_whole h (trailing := []) rfl, rfl, rfl, rfl⟩

/-- A single byte decodes to a header-`01` instruction when its header is `01` and it is not 0x76. -/
theorem decode_byte_load_iff {loadExt : Bool} {op : Byte} :
    (∃ d, decode loadExt [op] = .complete d ∧ d.header = 0b01#2) ↔ opHeader op = 0b01#2 ∧ op ≠ 0x76#8 := by
  constructor
  · rintro ⟨d, hdec, hheader⟩
    obtain ⟨_, _, cls, hbytes, hclass, -, rfl⟩ := decode_complete hdec
    cases hbytes
    have hload : opHeader op = 0b01#2 := hheader
    refine ⟨hload, fun h76 => ?_⟩
    rw [(classify_load_eq_none_iff hload loadExt).mpr h76] at hclass
    cases hclass
  · rintro ⟨hheader, hvalid⟩
    obtain ⟨cls, hclass, hone⟩ := classify_load_length hheader hvalid loadExt
    exact ⟨_, decode_whole hclass (trailing := []) hone.symm, hheader⟩

/-- Settles O11: each pair of operands has its row of `classifyLoad`, and 0x76 is the one byte without. -/
theorem loadFamilyClassification : Obligations.LoadFamilyClassification := by
  intro ext op
  refine ⟨fun hheader => ?_, ?_⟩
  · have hclass := classify_of_header_load hheader ext
    refine ⟨fun hfirst hsecond => ?_, fun src hfirst hsecond => ?_, fun dst hfirst hsecond => ?_,
      fun dst src hfirst hsecond => ?_⟩
    · rw [decode_cons_eq_invalidOpcode_iff, hclass, hfirst, hsecond]
      rfl
    · rw [operandOf_eq_memoryViaHL_iff.mpr hfirst, hsecond] at hclass
      exact decodesTo_of_classify hclass
    · rw [hfirst, operandOf_eq_memoryViaHL_iff.mpr hsecond] at hclass
      exact decodesTo_of_classify hclass
    · rw [hfirst, hsecond] at hclass
      exact decodesTo_of_classify hclass
  · rw [decode_byte_load_iff, opHeader_eq_load_iff, and_assoc]

/-- The bytes `LOAD_EXT` classifies are those of its table. -/
theorem classify_ext_eq_none_iff {op : Byte} (hheader : opHeader op ≠ 0b01#2) :
    classify true op = none ↔ op ∉ extTable.map ExtRow.opcode := by
  rw [classify_of_header_ne hheader]
  simp

/-- Settles O12: no class without `LOAD_EXT` outside header `01`, and with it a class exactly for the bytes of the
table, which are the 22 listed. -/
theorem unclassifiedBytesAreInvalid : Obligations.UnclassifiedBytesAreInvalid := by
  refine ⟨fun _ => rfl, fun op t hheader => ?_, fun op hheader => ⟨fun hmem hdec => ?_, fun hmem t => ?_⟩⟩
  · exact decode_unclassified (classify_of_header_ne hheader false) t
  · have hclass := (decode_cons_eq_invalidOpcode_iff []).mp hdec
    exact (classify_ext_eq_none_iff hheader).mp hclass hmem
  · exact decode_unclassified ((classify_ext_eq_none_iff hheader).mpr hmem) t

/-- Settles O13: the class has length 1, so every trailing byte is in excess. -/
theorem excessBytesAreWrongOpcodeSize : Obligations.ExcessBytesAreWrongOpcodeSize := by
  intro ext op t hheader hvalid ht
  obtain ⟨cls, hclass, hone⟩ := classify_load_length hheader hvalid ext
  have hpos := List.length_pos_iff.mpr ht
  have hdelta : ((1 : Nat) : Int) - ((1 + t.length : Nat) : Int) = -(t.length : Int) := by omega
  rw [decode_cons hclass, hone, if_neg (by omega), if_pos (by omega), hdelta]

/-- Settles O15: with the missing bytes the list has exactly its class's length. -/
theorem missingBytesComplete : Obligations.MissingBytesComplete := by
  intro ext bs n h
  obtain ⟨op, trailing, cls, rfl, hclass, hshort, rfl⟩ := decode_needMoreBytes h
  refine ⟨by omega, fun more hmore => ⟨_, decode_whole (trailing := trailing ++ more) hclass ?_⟩⟩
  rw [List.length_append]
  omega

/-- Settles O16: the class of a byte is the same in every configuration that has one, and it fixes both. -/
theorem lengthAndCostAreOfTheOpcodeByte : Obligations.LengthAndCostAreOfTheOpcodeByte := by
  intro ext ext' op t t' d d' h h'
  obtain ⟨_, _, cls, hbytes, hclass, -, rfl⟩ := decode_complete h
  obtain ⟨_, _, cls', hbytes', hclass', -, rfl⟩ := decode_complete h'
  cases hbytes
  cases hbytes'
  have hsame := (classify_true_of_classify hclass).symm.trans (classify_true_of_classify hclass')
  cases hsame
  exact ⟨rfl, rfl⟩

/-- Settles O17: the fields are those of the record the decoder builds, the bounds those of the class. -/
theorem decodedRecordFields : Obligations.DecodedRecordFields := by
  intro ext bs d h
  obtain ⟨op, trailing, cls, rfl, hclass, hlen, rfl⟩ := decode_complete h
  obtain ⟨-, hmax, -⟩ := classify_length hclass
  obtain ⟨hcost, hcost'⟩ := classify_cycles hclass
  have htrailing : trailing.length ≤ 2 := by
    simp only [Config.maxLength] at hmax
    omega
  exact ⟨rfl, rfl, rfl, rfl, hlen.symm, htrailing, hcost, hcost', Instr.instr_kind _⟩

/-- Settles O10: the map's eight rows, and that an operand register is one of the seven. -/
theorem operandFieldMap : Obligations.OperandFieldMap := by
  refine ⟨rfl, rfl, rfl, rfl, rfl, rfl, rfl, rfl, fun _ r _ => ?_⟩
  cases r <;> decide

/-- Settles O14: whether a byte is refused depends on its class alone. -/
theorem classificationPrecedesSize : Obligations.ClassificationPrecedesSize := by
  intro ext op t t' h
  have hclass := (decode_cons_eq_invalidOpcode_iff t).mp h
  exact (decode_cons_eq_invalidOpcode_iff t').mpr hclass

end Sys2Proof

namespace Sys2Proof.Machine

/-! SUPPORT. What `exec` answers, by the kind, and that no kind depends on F, SP or PC (10_state.md R28, R34;
40_fetch_execute.md R86-R88). -/

/-- Settles O36: the answer of an instruction is its kind's next state. -/
theorem everyInstructionCompletes : Obligations.EveryInstructionCompletes :=
  fun i s => ⟨kindNext i.kind s, exec_eq_kindNext i s⟩

theorem exec_eq_next_iff {i : Instr} {s t : State} : exec i s = .next t ↔ kindNext i.kind s = t := by
  simp [exec_eq_kindNext]

/-- The state with other contents of F, SP and PC. -/
def State.withFSpPc (s : State) (f : Byte) (sp pc : Word) : State :=
  { s with regs := { s.regs with f := f, sp := sp, pc := pc } }

section
variable (s : State) (f : Byte) (sp pc : Word)

theorem State.withFSpPc_read_reg8 (r : Reg8) : (s.withFSpPc f sp pc).regs.read r.id = s.regs.read r.id := by
  cases r <;> rfl

theorem State.withFSpPc_writeReg8 (r : Reg8) (v : Word) :
    (s.withFSpPc f sp pc).writeReg r.id v = (s.writeReg r.id v).withFSpPc f sp pc := by
  cases r <;> rfl

/-- A kind computes the same addresses and values whatever F, SP and PC hold, and writes none of the three. -/
theorem kindNext_withFSpPc (k : Kind) : kindNext k (s.withFSpPc f sp pc) = (kindNext k s).withFSpPc f sp pc := by
  cases k
  case loadRegisterFromRegister dst src =>
    simp only [kindNext, State.withFSpPc_read_reg8, State.withFSpPc_writeReg8]
  case loadRegisterFromMemory dst | loadRegisterFromImmediate dst _ =>
    exact State.withFSpPc_writeReg8 s f sp pc dst _
  case loadMemoryFromRegister src =>
    simp only [kindNext, State.withFSpPc_read_reg8]
    rfl
  all_goals rfl

end

/-- Settles O38: the instruction's kind writes none of the three and its next state does not depend on them. -/
theorem noInstructionReadsOrWritesFSpPc : Obligations.NoInstructionReadsOrWritesFSpPc := by
  intro i s t f sp pc h
  obtain rfl := exec_eq_next_iff.mp h
  obtain ⟨hf, hsp, hpc⟩ := kindNext_f_sp_pc i.kind s
  exact ⟨hf, hsp, hpc, exec_eq_next_iff.mpr (kindNext_withFSpPc s f sp pc i.kind)⟩

/-! SUPPORT. The branches of the composed step, an equation each (40_fetch_execute.md R94). -/

theorem step_of_fault {s : State} {k : ErrorKind} (h : s.fault = some k) : step s = .fault (.stuck k) := by
  simp only [step, composedStep, h]

theorem step_of_endsNormally {s : State} (h : endsNormally s) : step s = .refused .runEnded := by
  obtain ⟨hfault, hend⟩ := h
  simp only [step, composedStep, hfault, hend, if_true]

theorem step_of_runOne_ok {s t : State} {c len : Nat} (hcan : canStep s) (h : runOne s = .ok c len t) :
    step s = .next ((t.advancePc len).setResult (.ok c len)) := by
  obtain ⟨hfault, -, hend⟩ := hcan
  simp only [step, composedStep, hfault, hend, if_false, h]

theorem step_of_runOne_error {s t : State} {k : ErrorKind} (hcan : canStep s) (h : runOne s = .error k t) :
    step s = .next (t.raise k) := by
  obtain ⟨hfault, -, hend⟩ := hcan
  simp only [step, composedStep, hfault, hend, if_false, h]

/-- A call in a ready state returns, so a machine that can step does. -/
theorem exists_next_of_canStep {s : State} (hcan : canStep s) : ∃ t, step s = .next t := by
  have ⟨_, hready, _⟩ := hcan
  rcases runOne_cases hready with ⟨d, -, hrun, -, -⟩ | hrun | ⟨-, hrun⟩
  · exact ⟨_, step_of_runOne_ok hcan hrun⟩
  · exact ⟨_, step_of_runOne_error hcan hrun⟩
  · exact ⟨_, step_of_runOne_error hcan hrun⟩

/-- Settles O46: the step tests the fault first, and starts only without one. -/
theorem faultedMachineIsStuck : Obligations.FaultedMachineIsStuck := by
  intro s
  refine ⟨fun k hfault => ⟨step_of_fault hfault, fun hend => ?_⟩, fun t hstep => ?_⟩
  · obtain ⟨hnone, -⟩ := hend
    simp [hfault] at hnone
  · obtain ⟨hnone, -, -⟩ := step_next_premise hstep
    exact hnone

/-- Between calls a machine has faulted, has ended normally, or can step. -/
theorem faulted_or_ended_or_canStep {s : State} (hready : s.phase = .ready) :
    (∃ k, s.fault = some k) ∨ endsNormally s ∨ canStep s := by
  cases hfault : s.fault with
  | some k => exact .inl ⟨k, rfl⟩
  | none =>
    by_cases hend : s.endPc = some (s.regs.read .pc)
    · exact .inr (.inl ⟨hfault, hend⟩)
    · exact .inr (.inr ⟨hfault, hready, hend⟩)

/-- Settles O47: each way a run can stand has its own answer of the step. -/
theorem runEndsNormallyOrFaulted : Obligations.RunEndsNormallyOrFaulted := by
  intro s hready
  rcases faulted_or_ended_or_canStep hready with ⟨k, hfault⟩ | ⟨hfault, hend⟩ | hcan
  · simp [step_of_fault hfault, endsNormally, endsFaulted, hfault]
  · simp [step_of_endsNormally ⟨hfault, hend⟩, endsNormally, endsFaulted, hfault, hend]
  · obtain ⟨t, hstep⟩ := exists_next_of_canStep hcan
    obtain ⟨hfault, -, hend⟩ := hcan
    simp [hstep, endsNormally, endsFaulted, hfault, hend]

/-! SUPPORT. What a call of `run_one` returns between calls: a kind's next state, or the state itself. -/

theorem runOne_ok_state {s t : State} {c len : Nat} (hready : s.phase = .ready) (h : runOne s = .ok c len t) :
    ∃ k, t = kindNext k s := by
  rcases runOne_cases hready with ⟨d, -, hrun, -, -⟩ | hrun | ⟨-, hrun⟩
  · cases hrun.symm.trans h
    exact ⟨d.instr.kind, rfl⟩
  · cases hrun.symm.trans h
  · cases hrun.symm.trans h

theorem runOne_error_state {s t : State} {k : ErrorKind} (hready : s.phase = .ready) (h : runOne s = .error k t) :
    t = s := by
  rcases runOne_cases hready with ⟨d, -, hrun, -, -⟩ | hrun | ⟨-, hrun⟩
  · cases hrun.symm.trans h
  · cases hrun.symm.trans h
    rfl
  · cases hrun.symm.trans h
    rfl

/-- PC moves on modulo 0x10000 (40_fetch_execute.md R94). -/
theorem State.toNat_pc_advancePc (s : State) (length : Nat) :
    (s.advancePc length).regs.pc.toNat = (s.regs.pc.toNat + length) % 0x10000 := by
  change (s.regs.pc + BitVec.ofNat 16 length).toNat = _
  simp

/-- The advance starts from the old PC, since no kind moves it. -/
theorem toNat_pc_kindNext_advancePc (k : Kind) (s : State) (length : Nat) :
    ((kindNext k s).advancePc length).regs.pc.toNat = (s.regs.pc.toNat + length) % 0x10000 := by
  obtain ⟨-, -, hpc⟩ := kindNext_f_sp_pc k s
  rw [State.toNat_pc_advancePc, hpc]

theorem State.cellsKeptBut_advancePc (s : State) (length : Nat) : cellsKeptBut [.pc] s (s.advancePc length) :=
  cellsKeptBut_writeReg s .pc _

/-- Settles O40: the branches of the step; a call that returns has not moved PC or set the fault. -/
theorem composedStepFollowsRunOne : Obligations.ComposedStepFollowsRunOne := by
  intro s
  refine ⟨fun k hfault t => ?_, fun hfault hend t => ?_, fun hcan c len t hrun => ?_, fun hcan k t hrun => ?_⟩
  · simp [step_of_fault hfault]
  · simp [step_of_endsNormally ⟨hfault, hend⟩]
  · have ⟨hnone, hready, _⟩ := hcan
    obtain ⟨k, rfl⟩ := runOne_ok_state hready hrun
    obtain ⟨-, hfault, -⟩ := kindNext_restKept k s
    exact ⟨_, step_of_runOne_ok hcan hrun, toNat_pc_kindNext_advancePc k s len, hfault.trans hnone, rfl, rfl,
      State.cellsKeptBut_advancePc _ len, rfl, rfl, rfl⟩
  · have ⟨_, hready, _⟩ := hcan
    obtain rfl := runOne_error_state hready hrun
    exact ⟨_, step_of_runOne_error hcan hrun, rfl, rfl, rfl⟩

/-! SUPPORT. What a step without an error has done. -/

theorem stepsSafely_cases {s t : State} (h : stepsSafely s t) :
    ∃ d bs, t = ((kindNext d.instr.kind s).advancePc d.length).setResult (.ok d.cycles d.length) ∧
      s.mem.readMany s.regs.pc.toNat bs.length = .ok bs ∧ decode s.loadExt bs = .complete d := by
  obtain ⟨hstep, hsafe⟩ := h
  obtain ⟨-, hready, -⟩ := step_next_premise hstep
  rcases step_cases hready hstep with hdone | rfl | ⟨-, rfl⟩
  · exact hdone
  · simp at hsafe
  · simp at hsafe

/-- Settles O41: the length is that of the class of the byte at PC, and the kind leaves PC to the advance. -/
theorem nextPcIsSequential : Obligations.NextPcIsSequential := by
  intro s t h
  obtain ⟨d, bs, rfl, -, hdec⟩ := stepsSafely_cases h
  obtain ⟨op, trailing, cls, -, hclass, -, rfl⟩ := decode_complete hdec
  obtain ⟨hmin, hmax, hbase⟩ := classify_length hclass
  exact ⟨cls.cycles, cls.length, rfl, hmin, hmax, hbase, toNat_pc_kindNext_advancePc _ s cls.length⟩

/-! SUPPORT. The cost of a kind (40_fetch_execute.md R89; 70_reset_and_hazards.md R154, R155). -/

/-- The cost the tables give a kind, in cycles. -/
def kindCycles : Kind → Nat
  | .loadRegisterFromRegister _ _ => 1
  | .loadMemoryFromImmediate _ | .loadAFromHighImmediate _ | .loadHighImmediateFromA _ => 3
  | .loadAFromAbsolute _ | .loadAbsoluteFromA _ => 4
  | .loadRegisterFromMemory _ | .loadMemoryFromRegister _ | .loadRegisterFromImmediate _ _ | .loadAFromBC
  | .loadAFromDE | .loadBCFromA | .loadDEFromA | .loadAFromHighC | .loadHighCFromA | .loadAFromHLIncrement
  | .loadAFromHLDecrement | .loadHLIncrementFromA | .loadHLDecrementFromA => 2

theorem kindCycles_of_classifyLoad {first second : Operand} {cls : OpClass} (h : classifyLoad first second = some cls)
    (trailing : List Byte) : cls.cycles = kindCycles (cls.make trailing) := by
  cases first with
  | memoryViaHL =>
    cases second with
    | memoryViaHL => cases h
    | register src => cases h; rfl
  | register dst =>
    cases second with
    | memoryViaHL => cases h; rfl
    | register src => cases h; rfl

theorem kindCycles_of_mem_extTable (trailing : List Byte) :
    ∀ row ∈ extTable, row.cls.cycles = kindCycles (row.cls.make trailing) := by
  simp [extTable, extTable.extTableLow, extTable.extTableMid, extTable.extTableHigh, kindCycles]

/-- A class costs what the kind it makes costs, whatever bytes trail. -/
theorem kindCycles_of_classify {loadExt : Bool} {op : Byte} {cls : OpClass} (h : classify loadExt op = some cls)
    (trailing : List Byte) : cls.cycles = kindCycles (cls.make trailing) := by
  rcases classify_cases h with ⟨-, hload⟩ | ⟨-, row, hrow, -, rfl⟩
  · exact kindCycles_of_classifyLoad hload trailing
  · exact kindCycles_of_mem_extTable trailing row hrow

theorem kindCycles_of_decode {loadExt : Bool} {bs : List Byte} {d : Decoded} (h : decode loadExt bs = .complete d) :
    d.cycles = kindCycles d.instr.kind := by
  obtain ⟨op, trailing, cls, -, hclass, -, rfl⟩ := decode_complete h
  simpa [decodedRecord] using kindCycles_of_classify hclass trailing

/-- A read that starts with some byte is the read of that byte and of the rest. -/
theorem Memory.readMany_cons_iff {m : Memory} {a n : Nat} {b : Byte} {bs : List Byte} :
    m.readMany a (n + 1) = .ok (b :: bs) ↔ m.read a = .ok b ∧ m.readMany (a + 1) n = .ok bs := by
  simp only [Memory.readMany]
  cases m.read a with
  | error k => simp
  | ok b' => cases m.readMany (a + 1) n <;> simp

/-- Settles O49: the bytes at PC are those decoded, and their class costs what its kind does. -/
theorem stepCostIsOfTheKind : Obligations.StepCostIsOfTheKind := by
  intro s t h
  obtain ⟨d, bs, rfl, hread, hdec⟩ := stepsSafely_cases h
  obtain ⟨op, trailing, _, rfl, -, -, -⟩ := decode_complete hdec
  obtain ⟨hop, -⟩ := Memory.readMany_cons_iff.mp hread
  exact ⟨op, d, trailing, hop, hdec, rfl, kindCycles_of_decode hdec⟩

/-! SUPPORT. The fetch of the whole instruction at PC (40_fetch_execute.md R85). -/

/-- A call leaves the machine in the phase it was in. -/
theorem State.setPhase_ready {s : State} (h : s.phase = .ready) (p : FetchPhase) :
    (s.setPhase p).setPhase .ready = s := by
  change { s with phase := .ready } = s
  rw [← h]

/-- Phase 2: the missing bytes complete the decode, and the machine is *ready* as before. -/
theorem fetchRest_of_decode {s : State} {op : Byte} {trailing : List Byte} {d : Decoded} (hready : s.phase = .ready)
    (hread : s.mem.readMany ((s.regs.read .pc).toNat + 1) trailing.length = .ok trailing)
    (hdec : decode s.loadExt (op :: trailing) = .complete d) :
    fetchRest op trailing.length s = .decoded d s := by
  simp only [fetchRest, State.setPhase_mem, State.setPhase_regs, State.setPhase_loadExt, State.setPhase_ready hready,
    hread, hdec, endOfFetch]

/-- The opcode byte of a longer instruction asks for exactly the trailing bytes. -/
theorem decode_byte_of_decode {loadExt : Bool} {op : Byte} {trailing : List Byte} {d : Decoded}
    (hdec : decode loadExt (op :: trailing) = .complete d) (hmore : trailing ≠ []) :
    decode loadExt [op] = .needMoreBytes trailing.length := by
  obtain ⟨_, _, cls, hbytes, hclass, hlen, -⟩ := decode_complete hdec
  cases hbytes
  have hpos := List.length_pos_iff.mpr hmore
  simp [decode_cons hclass, ← hlen, hpos]

/-- Bytes at PC that decode to an instruction are what a fetch between calls answers. -/
theorem fetch_of_decode {s : State} {bs : List Byte} {d : Decoded} (hready : s.phase = .ready)
    (hread : s.mem.readMany (s.regs.read .pc).toNat bs.length = .ok bs) (hdec : decode s.loadExt bs = .complete d) :
    fetch s = .decoded d s := by
  obtain ⟨op, trailing, _, rfl, -, -, -⟩ := decode_complete hdec
  obtain ⟨hop, hrest⟩ := Memory.readMany_cons_iff.mp hread
  by_cases hone : trailing = []
  · subst hone
    exact fetch_of_decode_byte hop hdec
  · simp only [fetch, hop, decode_byte_of_decode hdec hone, fetchRest_of_decode hready hrest hdec]

/-- Settles O39: the fetch answers the instruction, which completes; so its error and its refusal do not arise. -/
theorem stepRunsDecodedInstruction : Obligations.StepRunsDecodedInstruction := by
  intro s bs d hcan hread hdec
  have ⟨_, hready, _⟩ := hcan
  have hstep := step_of_fetch hcan (fetch_of_decode hready hread hdec)
  have hexec := exec_eq_kindNext d.instr s
  refine ⟨fun t ht => ?_, fun k hk => ?_, fun r hr => ?_⟩
  · obtain rfl := exec_eq_next_iff.mp ht
    exact hstep
  · cases hexec.symm.trans hk
  · cases hexec.symm.trans hr

end Sys2Proof.Machine

namespace Sys2Proof.Machine

/-! SUPPORT. `executesTo` from the kind: its own frame, its independence of F, and the byte it stores, if it stores one
(10_state.md R28, R29; 20_memory.md R45). -/

/-- An instruction executes to its kind's next state, in the kind's own frame, once the bytes outside its store address
are kept. -/
theorem executesTo_of_kindNext {k : Kind} {s : State} {post : State → Prop}
    (hbytes : bytesKeptBut (storeAddress k s).toList s (kindNext k s)) (hpost : post (kindNext k s)) :
    executesTo k.instr s (writtenCells k) (storeAddress k s).toList post := by
  have hexec : exec k.instr s = .next (kindNext k s) := exec_eq_next_iff.mpr (by rw [Kind.kind_instr])
  refine ⟨_, hexec, hpost, kindNext_cellsKeptBut k s, hbytes, kindNext_restKept k s, fun f => ?_⟩
  obtain ⟨-, hsp, hpc, hother⟩ := noInstructionReadsOrWritesFSpPc k.instr s _ f s.regs.sp s.regs.pc hexec
  simpa only [hsp, hpc] using hother

/-- A kind without a store address needs no canonical memory for its frame: it leaves the memory as it is. -/
theorem executesTo_of_storeAddress_none {k : Kind} {s : State} {post : State → Prop} (haddr : storeAddress k s = none)
    (hpost : post (kindNext k s)) : executesTo k.instr s (writtenCells k) [] post := by
  have hmem : (kindNext k s).mem = s.mem := by simpa [haddr] using kindNext_mem_cases k s
  have hbytes : bytesKeptBut (storeAddress k s).toList s (kindNext k s) := fun x _ => by rw [hmem]
  simpa [haddr] using executesTo_of_kindNext hbytes hpost

theorem executesTo_of_storeAddress_some {k : Kind} {s : State} {post : State → Prop} (hwf : s.mem.wf = true) {a : Nat}
    (haddr : storeAddress k s = some a) (hpost : post (kindNext k s)) :
    executesTo k.instr s (writtenCells k) [a] post := by
  simpa [haddr] using executesTo_of_kindNext (kindNext_bytesKeptBut k hwf) hpost

/-! SUPPORT. The operand registers hold bytes, and what a byte written to one does to HL (10_state.md R19, R24). -/

theorem Reg8.id_inj {r r' : Reg8} : r.id = r'.id ↔ r = r' := by
  cases r <;> cases r' <;> decide

theorem Reg8.isCell_id (r : Reg8) : isCell r.id = true := by
  cases r <;> rfl

/-- An operand register reads as a zero-extended byte. -/
@[simp] theorem RegFile.zext16_lowByte_read_reg8 (rf : RegFile) (r : Reg8) :
    zext16 (lowByte (rf.read r.id)) = rf.read r.id := by
  cases r <;> exact congrArg zext16 (lowByte_zext16 _)

/-- Writing an operand register what it reads changes nothing (41_load_core.md R103). -/
@[simp] theorem RegFile.write_read_reg8 (rf : RegFile) (r : Reg8) : rf.write r.id (rf.read r.id) = rf := by
  cases r <;> simp [Reg8.id, RegFile.read, RegFile.write]

@[simp] theorem State.writeReg_read_reg8 (s : State) (r : Reg8) : s.writeReg r.id (s.regs.read r.id) = s := by
  rw [State.writeReg, RegFile.write_read_reg8]

/-- A word that is a zero-extended byte is read back from the operand register it is written to, and HL follows a write
to H or L. -/
theorem RegFile.read_write_reg8_of_byte (rf : RegFile) (dst : Reg8) {v : Word} (hv : zext16 (lowByte v) = v) :
    (rf.write dst.id v).read dst.id = v ∧
    (dst = .h → (rf.write dst.id v).read .hl = (v <<< 8) ||| rf.l.setWidth 16) ∧
    (dst = .l → (rf.write dst.id v).read .hl = (rf.h.setWidth 16 <<< 8) ||| v) := by
  refine ⟨?_, ?_, ?_⟩
  · rw [RegFile.read_write_reg8, ← zext16_lowByte, hv]
  · rintro rfl
    change (zext16 (lowByte v) <<< 8) ||| zext16 rf.l = (v <<< 8) ||| zext16 rf.l
    rw [hv]
  · rintro rfl
    change (zext16 rf.h <<< 8) ||| zext16 (lowByte v) = (zext16 rf.h <<< 8) ||| v
    rw [hv]

/-- The source of a register copy keeps its value, also when it is the destination (41_load_core.md R100). -/
theorem State.read_src_writeReg (s : State) (dst src : Reg8) :
    (s.writeReg dst.id (s.regs.read src.id)).regs.read src.id = s.regs.read src.id := by
  by_cases hsame : src = dst
  · subst hsame
    rw [State.writeReg_read_reg8]
  · have hcell : src.id ∉ [dst.id] := by simpa [Reg8.id_inj] using hsame
    exact cellsKeptBut_writeReg8 s dst _ src.id (Reg8.isCell_id src) hcell

/-- 30_encoding.md R66: the byte `01 ddd sss` is `LD d,s`, one byte long and one cycle. -/
theorem decodesTo_loadRegisterFromRegister (loadExt : Bool) (dst src : Reg8) :
    decodesTo loadExt [opByte 0b01#2 dst.code src.code] (Kind.loadRegisterFromRegister dst src).instr 1 :=
  decodesTo_of_classify (classify_opByte_load loadExt (.register dst) (.register src))

/-- Settles O22: the kind writes the value of the source, a byte, to the destination. -/
theorem loadRegisterFromRegisterCopies : Obligations.LoadRegisterFromRegisterCopies := by
  intro dst src s
  refine ⟨fun ext => decodesTo_loadRegisterFromRegister ext dst src, executesTo_of_storeAddress_none rfl ?_⟩
  obtain ⟨hdst, hh, hl⟩ := s.regs.read_write_reg8_of_byte dst (s.regs.zext16_lowByte_read_reg8 src)
  refine ⟨hdst, s.read_src_writeReg dst src, ?_, hh, hl⟩
  rintro rfl
  exact s.writeReg_read_reg8 dst

/-- Settles O23: the seven rows are `LD r, r`, whose kind writes a register what it reads; the step adds the advance
of PC and the output. -/
theorem sameRegisterLoadChangesOnlyPc : Obligations.SameRegisterLoadChangesOnlyPc := by
  intro op i s hmem
  have hrow : (op, i) ∈ [Reg8.b, .c, .d, .e, .h, .l, .a].map fun r =>
      (opByte 0b01#2 r.code r.code, (Kind.loadRegisterFromRegister r r).instr) := hmem
  obtain ⟨r, -, heq⟩ := List.mem_map.mp hrow
  cases heq
  have hkind : kindNext (Kind.loadRegisterFromRegister r r).instr.kind s = s := by
    rw [Kind.kind_instr]
    exact s.writeReg_read_reg8 r
  refine ⟨exec_eq_next_iff.mpr hkind, fun hcan hread => ?_⟩
  obtain ⟨d, hdec, hinstr, hcycles, hlen⟩ := decodesTo_loadRegisterFromRegister s.loadExt r r
  rw [step_of_fetch hcan (fetch_of_decode_byte hread hdec), hinstr, hkind, hcycles, hlen]
  rfl

/-- Settles O24: the kind writes the byte at HL, which is in range, to the destination. -/
theorem loadRegisterFromMemoryReadsByteAtHL : Obligations.LoadRegisterFromMemoryReadsByteAtHL := by
  intro dst s
  refine ⟨fun ext => ?_, _, s.mem.read_of_lt (addrHL_lt s), executesTo_of_storeAddress_none rfl ?_⟩
  · exact decodesTo_of_classify (classify_opByte_load ext (.register dst) .memoryViaHL)
  · exact s.regs.read_write_reg8_of_byte dst (congrArg zext16 (lowByte_zext16 _))

/-- Settles O25: the kind stores the low byte of the source at HL, where the read after the write finds it; H and L are
their own low bytes. -/
theorem loadMemoryFromRegisterStoresByteAtHL : Obligations.LoadMemoryFromRegisterStoresByteAtHL := by
  intro src s hwf
  refine ⟨fun ext => ?_, executesTo_of_storeAddress_some hwf rfl ?_⟩
  · exact decodesTo_of_classify (classify_opByte_load ext .memoryViaHL (.register src))
  · have hstored : (kindNext (.loadMemoryFromRegister src) s).mem.read (s.regs.read .hl).toNat =
        .ok (lowByte (s.regs.read src.id)) := Memory.read_set_same hwf (addrHL_lt s) _
    have hbyte : (s.regs.read src.id).setWidth 8 = lowByte (s.regs.read src.id) :=
      BitVec.setWidth_eq_extractLsb' (by decide)
    refine ⟨hbyte ▸ hstored, ?_, ?_⟩
    · rintro rfl
      exact hstored.trans (congrArg Except.ok (lowByte_zext16 s.regs.h))
    · rintro rfl
      exact hstored.trans (congrArg Except.ok (lowByte_zext16 s.regs.l))

end Sys2Proof.Machine

namespace Sys2Proof.Machine

/-! SUPPORT. What the bytes of an instruction decode to in the extended configuration: the instruction itself, at the
cost of its kind (42_load_extension.md R107). -/

theorem Kind.decodesTo_encode (k : Kind) : decodesTo true k.encode k.instr (kindCycles k) := by
  obtain ⟨d, hdec, hinstr, hlen⟩ := decodeOfEncode true k.instr rfl
  rw [encode_instr] at hdec hlen
  have hcycles := kindCycles_of_decode hdec
  rw [hinstr, Kind.kind_instr] at hcycles
  exact ⟨d, hdec, hinstr, hcycles, hlen⟩

/-- The bytes of a word in memory order are its low byte and its high byte (20_memory.md R48). -/
theorem wordBytes_joinBytes (h l : Byte) : wordBytes (joinBytes h l) = [l, h] :=
  wordBytes_trailingWord l h

/-! SUPPORT. `executesTo` of a load into A and of a store, by the address (20_memory.md R45). -/

/-- The page offset in C is a byte (42_load_extension.md R116, R117). -/
theorem addrHighC_eq_addrHigh (s : State) : addrHighC s = addrHigh s.regs.c := by
  change _ + (zext16 s.regs.c).toNat = _ + s.regs.c.toNat
  rw [zext16, BitVec.toNat_setWidth_of_le (by decide)]

theorem State.read_a_writeReg_a (s : State) (b : Byte) : (s.writeReg .a (zext16 b)).regs.read .a = zext16 b :=
  congrArg zext16 (lowByte_zext16 b)

/-- A kind that only writes A the byte at an address in range. -/
theorem exists_byte_executesTo_loadA {k : Kind} {s : State} {a : Nat} (hlt : a < Config.memorySize)
    (haddr : storeAddress k s = none) (hnext : kindNext k s = s.writeReg .a (zext16 (s.mem.get a))) :
    ∃ b, s.mem.read a = .ok b ∧
      executesTo k.instr s (writtenCells k) [] (fun t => t.regs.read .a = b.setWidth 16) := by
  refine ⟨_, s.mem.read_of_lt hlt, executesTo_of_storeAddress_none haddr ?_⟩
  rw [hnext]
  exact s.read_a_writeReg_a _

/-- A kind that stores a byte at an address in range leaves it there. -/
theorem executesTo_store {k : Kind} {s : State} {a : Nat} {b : Byte} (hwf : s.mem.wf = true)
    (hlt : a < Config.memorySize) (haddr : storeAddress k s = some a) (hmem : (kindNext k s).mem = s.mem.set a b) :
    executesTo k.instr s (writtenCells k) [a] (fun t => t.mem.read a = .ok b) := by
  refine executesTo_of_storeAddress_some hwf haddr ?_
  rw [hmem]
  exact Memory.read_set_same hwf hlt b

/-- Settles O27: the kind stores n at HL, which is in range. -/
theorem loadMemoryFromImmediateStoresByteAtHL : Obligations.LoadMemoryFromImmediateStoresByteAtHL :=
  fun n s hwf =>
    ⟨Kind.decodesTo_encode (.loadMemoryFromImmediate n),
      executesTo_store (k := .loadMemoryFromImmediate n) hwf (addrHL_lt s) rfl rfl⟩

/-- Settles O29: each kind stores A at its register pair. -/
theorem storeAWritesByteAtBCOrDE : Obligations.StoreAWritesByteAtBCOrDE :=
  fun s hwf =>
    ⟨⟨Kind.decodesTo_encode .loadBCFromA, executesTo_store (k := .loadBCFromA) hwf (addrBC_lt s) rfl rfl⟩,
      Kind.decodesTo_encode .loadDEFromA, executesTo_store (k := .loadDEFromA) hwf (addrDE_lt s) rfl rfl⟩

/-- Settles O31: the word of the instruction has the bytes lo and hi, and its kind stores A there. -/
theorem storeAWritesByteAtAbsoluteAddress : Obligations.StoreAWritesByteAtAbsoluteAddress := by
  intro lo hi s hwf
  have hdec := Kind.decodesTo_encode (.loadAbsoluteFromA (joinBytes hi lo))
  rw [Kind.encode, wordBytes_joinBytes] at hdec
  exact ⟨hdec, executesTo_store (k := .loadAbsoluteFromA (joinBytes hi lo)) hwf (addrAbs_lt _) rfl rfl⟩

/-- Settles O33: both kinds store A in the high page, one at the offset C, one at the offset n. -/
theorem storeAWritesByteInHighPage : Obligations.StoreAWritesByteInHighPage :=
  fun n s hwf =>
    ⟨⟨Kind.decodesTo_encode .loadHighCFromA,
        executesTo_store (k := .loadHighCFromA) hwf (addrHigh_lt s.regs.c)
          (congrArg some (addrHighC_eq_addrHigh s)) (congrArg (s.mem.set · s.regs.a) (addrHighC_eq_addrHigh s))⟩,
      Kind.decodesTo_encode (.loadHighImmediateFromA n),
      executesTo_store (k := .loadHighImmediateFromA n) hwf (addrHigh_lt n) rfl rfl⟩

/-- Settles O26: the kind writes n, a byte, to the destination. -/
theorem loadRegisterFromImmediateSetsRegister : Obligations.LoadRegisterFromImmediateSetsRegister := by
  intro dst n s
  have hbyte : opByte 0b00#2 dst.code 0b110#3 = 0x06#8 ||| (dst.code.setWidth 8 <<< 3) := by
    cases dst <;> decide
  refine ⟨hbyte ▸ Kind.decodesTo_encode (.loadRegisterFromImmediate dst n), executesTo_of_storeAddress_none rfl ?_⟩
  obtain ⟨hread, -, -⟩ := s.regs.read_write_reg8_of_byte dst (congrArg zext16 (lowByte_zext16 n))
  exact hread

/-- Settles O28: each kind writes A the byte at its register pair. -/
theorem loadAReadsByteAtBCOrDE : Obligations.LoadAReadsByteAtBCOrDE :=
  fun s =>
    ⟨⟨Kind.decodesTo_encode .loadAFromBC, exists_byte_executesTo_loadA (k := .loadAFromBC) (addrBC_lt s) rfl rfl⟩,
      Kind.decodesTo_encode .loadAFromDE, exists_byte_executesTo_loadA (k := .loadAFromDE) (addrDE_lt s) rfl rfl⟩

/-- Settles O30: the word of the instruction has the bytes lo and hi, and its kind writes A the byte there. -/
theorem loadAReadsByteAtAbsoluteAddress : Obligations.LoadAReadsByteAtAbsoluteAddress := by
  intro lo hi s
  have hdec := Kind.decodesTo_encode (.loadAFromAbsolute (joinBytes hi lo))
  rw [Kind.encode, wordBytes_joinBytes] at hdec
  exact ⟨hdec, exists_byte_executesTo_loadA (k := .loadAFromAbsolute (joinBytes hi lo)) (addrAbs_lt _) rfl rfl⟩

/-- Settles O32: both kinds write A a byte of the high page, one at the offset C, one at the offset n. -/
theorem loadAReadsByteInHighPage : Obligations.LoadAReadsByteInHighPage :=
  fun n s =>
    ⟨⟨Kind.decodesTo_encode .loadAFromHighC,
        exists_byte_executesTo_loadA (k := .loadAFromHighC) (addrHigh_lt s.regs.c) rfl
          (congrArg (fun a => s.writeReg .a (zext16 (s.mem.get a))) (addrHighC_eq_addrHigh s))⟩,
      Kind.decodesTo_encode (.loadAFromHighImmediate n),
      exists_byte_executesTo_loadA (k := .loadAFromHighImmediate n) (addrHigh_lt n) rfl rfl⟩

/-! SUPPORT. HL after it is moved by one (42_load_extension.md R120-R123). -/

theorem State.read_hl_writeReg_hl (s : State) (v : Word) : (s.writeReg .hl v).regs.read .hl = v :=
  joinBytes_highByte_lowByte v

theorem State.toNat_hl_increment (s : State) (v : Word) :
    ((s.writeReg .hl (v + 1)).regs.read .hl).toNat = (v.toNat + 1) % 0x10000 := by
  rw [s.read_hl_writeReg_hl]
  exact BitVec.toNat_add v 1

theorem State.toNat_hl_decrement (s : State) (v : Word) :
    ((s.writeReg .hl (v - 1)).regs.read .hl).toNat = (v.toNat + 0xFFFF) % 0x10000 := by
  rw [s.read_hl_writeReg_hl, Nat.add_comm]
  exact BitVec.toNat_sub v 1

/-- Settles O34: the kinds write A the byte at HL, which moving HL leaves, and then move HL. -/
theorem loadAThenMovesHL : Obligations.LoadAThenMovesHL := by
  intro s
  have hread := s.read_a_writeReg_a (s.mem.get (addrHL s))
  exact ⟨_, s.mem.read_of_lt (addrHL_lt s),
    Kind.decodesTo_encode .loadAFromHLIncrement,
    executesTo_of_storeAddress_none (k := .loadAFromHLIncrement) rfl ⟨hread, State.toNat_hl_increment _ _⟩,
    Kind.decodesTo_encode .loadAFromHLDecrement,
    executesTo_of_storeAddress_none (k := .loadAFromHLDecrement) rfl ⟨hread, State.toNat_hl_decrement _ _⟩⟩

/-- Settles O35: the kinds store A at the old HL and then move HL, which leaves the memory. -/
theorem storeAThenMovesHL : Obligations.StoreAThenMovesHL := by
  intro s hwf
  have hstored := Memory.read_set_same hwf (addrHL_lt s) s.regs.a
  exact ⟨Kind.decodesTo_encode .loadHLIncrementFromA,
    executesTo_of_storeAddress_some (k := .loadHLIncrementFromA) hwf rfl ⟨hstored, State.toNat_hl_increment _ _⟩,
    Kind.decodesTo_encode .loadHLDecrementFromA,
    executesTo_of_storeAddress_some (k := .loadHLDecrementFromA) hwf rfl ⟨hstored, State.toNat_hl_decrement _ _⟩⟩

/-! SUPPORT. The fetch that runs past the top of memory (42_load_extension.md R124). -/

theorem fetch_of_readMany_error {s : State} {op : Byte} {n : Nat} {k : ErrorKind} (hready : s.phase = .ready)
    (hop : s.mem.read (s.regs.read .pc).toNat = .ok op) (hmore : decode s.loadExt [op] = .needMoreBytes n)
    (hrest : s.mem.readMany ((s.regs.read .pc).toNat + 1) n = .error k) : fetch s = .failed k s := by
  simp only [fetch, hop, hmore, fetchRest, State.setPhase_mem, State.setPhase_regs, hrest,
    State.setPhase_ready hready]

theorem runOne_of_fetch_failed {s t : State} {k : ErrorKind} (hready : s.phase = .ready)
    (hfetch : fetch s = .failed k t) : runOne s = .error k t := by
  simp only [runOne, hready, hfetch]

/-- Settles O43: the trailing bytes start at most at the top of memory, so the first address out of range is
`Config.memorySize`; the failed call leaves the state to the recording of its error. -/
theorem trailingFetchPastTopFaults : Obligations.TrailingFetchPastTopFaults := by
  intro s op n hcan hop hmore hpast
  have ⟨_, hready, _⟩ := hcan
  obtain ⟨hpos, -⟩ := missingBytesComplete s.loadExt [op] n hmore
  have hgt : Config.memorySize < s.regs.pc.toNat + 1 + n := by
    simp only [Config.memorySize]
    omega
  have hrest := s.mem.readMany_of_gt hpos hgt
  have hstart : s.regs.pc.toNat + 1 ≤ Config.memorySize := pc_lt s
  rw [Nat.max_eq_right hstart] at hrest
  exact step_of_runOne_error hcan (runOne_of_fetch_failed hready (fetch_of_readMany_error hready hop hmore hrest))

end Sys2Proof.Machine

namespace Sys2Proof.Machine

/-! SUPPORT. How a call fails: what a single byte at PC decodes to decides it, or the fetch of the trailing bytes does
(60_exceptions.md R126-R133). -/

/-- Alone, a byte is never in excess, so the only error it decodes to is InvalidOpcode. -/
theorem decode_byte_error {loadExt : Bool} {op : Byte} {k : ErrorKind} (h : decode loadExt [op] = .error k) :
    k = .invalidOpcode := by
  cases hclass : classify loadExt op with
  | none => cases (decode_unclassified hclass []).symm.trans h; rfl
  | some cls =>
    obtain ⟨hmin, -, -⟩ := classify_length hclass
    have hfits : ¬ cls.length < 1 + ([] : List Byte).length := Nat.not_lt.mpr hmin
    rw [decode_cons hclass, if_neg hfits] at h
    split at h <;> cases h

/-- A byte that asks for more is one of `LOAD_EXT` and asks for at most two (30_encoding.md R62). -/
theorem decode_byte_needMoreBytes {loadExt : Bool} {op : Byte} {n : Nat} (h : decode loadExt [op] = .needMoreBytes n) :
    loadExt = true ∧ n ≤ 2 := by
  obtain ⟨_, _, cls, hbytes, hclass, hshort, rfl⟩ := decode_needMoreBytes h
  cases hbytes
  obtain ⟨-, hmax, hbase⟩ := classify_length hclass
  simp only [List.length_nil, Config.maxLength] at hshort hmax ⊢
  refine ⟨?_, by omega⟩
  cases loadExt with
  | true => rfl
  | false =>
    have hone := hbase rfl
    omega

theorem fetch_of_decode_byte_error {s : State} {op : Byte} {k : ErrorKind}
    (hop : s.mem.read (s.regs.read .pc).toNat = .ok op) (hdec : decode s.loadExt [op] = .error k) :
    fetch s = .failed k s := by
  simp only [fetch, hop, hdec, endOfFetch]

/-- Trailing bytes that lie inside the Address Space are fetched, and with them the instruction is whole. -/
theorem exists_fetch_of_needMoreBytes {s : State} {op : Byte} {n : Nat} (hready : s.phase = .ready)
    (hop : s.mem.read (s.regs.read .pc).toNat = .ok op) (hmore : decode s.loadExt [op] = .needMoreBytes n)
    (hfits : (s.regs.read .pc).toNat + 1 + n ≤ Config.memorySize) : ∃ d, fetch s = .decoded d s := by
  obtain ⟨rest, hrest⟩ : ∃ rest, s.mem.readMany ((s.regs.read .pc).toNat + 1) n = .ok rest :=
    ⟨_, s.mem.readMany_of_le hfits⟩
  obtain rfl := Memory.length_readMany hrest
  obtain ⟨-, hcomplete⟩ := missingBytesComplete s.loadExt [op] rest.length hmore
  obtain ⟨d, hdec⟩ := hcomplete rest rfl
  exact ⟨d, fetch_of_decode (bs := op :: rest) hready (Memory.readMany_cons_iff.mpr ⟨hop, hrest⟩) hdec⟩

/-- A call that fetched its instruction succeeds: no instruction fails. -/
theorem runOne_of_fetch_decoded {s t : State} {d : Decoded} (hready : s.phase = .ready)
    (hfetch : fetch s = .decoded d t) : runOne s = .ok d.cycles d.length (kindNext d.instr.kind t) := by
  simp only [runOne, hready, hfetch, executeDecoded, exec_eq_kindNext]

/-- While a call is in progress `run_one` refuses; it does not return an error. -/
theorem ready_of_runOne_error {s t : State} {k : ErrorKind} (h : runOne s = .error k t) : s.phase = .ready := by
  cases hphase : s.phase with
  | ready => rfl
  | needMoreBytes => simp [runOne, hphase] at h

/-- A call that fails with another error than InvalidOpcode fails in the fetch of trailing bytes past the top. -/
theorem trailing_past_top_of_runOne_error {s t : State} {k : ErrorKind} (h : runOne s = .error k t)
    (hk : k ≠ .invalidOpcode) :
    ∃ op n, s.mem.read (s.regs.read .pc).toNat = .ok op ∧ decode s.loadExt [op] = .needMoreBytes n ∧
      Config.memorySize < (s.regs.read .pc).toNat + 1 + n := by
  have hready := ready_of_runOne_error h
  have hop := s.mem.read_of_lt (pc_lt s)
  have hnot_decoded (d : Decoded) : fetch s ≠ .decoded d s := fun hfetch => by
    cases (runOne_of_fetch_decoded hready hfetch).symm.trans h
  cases hdec : decode s.loadExt [s.mem.get (s.regs.read .pc).toNat] with
  | complete d => exact absurd (fetch_of_decode_byte hop hdec) (hnot_decoded d)
  | error k' =>
    cases (runOne_of_fetch_failed hready (fetch_of_decode_byte_error hop hdec)).symm.trans h
    exact absurd (decode_byte_error hdec) hk
  | needMoreBytes n =>
    refine ⟨_, n, hop, hdec, Nat.lt_of_not_le fun hfits => ?_⟩
    obtain ⟨d, hfetch⟩ := exists_fetch_of_needMoreBytes hready hop hdec hfits
    exact hnot_decoded d hfetch

/-- Settles O44: the errors are those of `runOne_cases`; OutOfBounds means at most two trailing bytes past the top,
which leaves PC its two last addresses. -/
theorem onlyReachableErrors : Obligations.OnlyReachableErrors := by
  intro s t k h
  rcases runOne_cases (ready_of_runOne_error h) with ⟨d, -, hrun, -, -⟩ | hrun | ⟨hext, hrun⟩
  · cases hrun.symm.trans h
  · cases hrun.symm.trans h
    exact .inl rfl
  · obtain ⟨op, n, hop, hmore, hpast⟩ := trailing_past_top_of_runOne_error hrun (by simp)
    cases hrun.symm.trans h
    obtain ⟨-, htwo⟩ := decode_byte_needMoreBytes hmore
    rw [hext] at hmore
    have hpc : 0x10000 < s.regs.pc.toNat + 1 + n := hpast
    exact .inr ⟨hext, rfl, by bv_omega, op, n, hop, hmore⟩

/-- Settles O45: a failed call returns the state it was given; a step that sets the fault is one that recorded an error,
since a completed one keeps the fault it started without. -/
theorem failureLeavesRegistersAndMemory : Obligations.FailureLeavesRegistersAndMemory := by
  refine ⟨fun s t k h => runOne_error_state (ready_of_runOne_error h) h, fun s t k hstep hfault => ?_⟩
  obtain ⟨hnone, hready, -⟩ := step_next_premise hstep
  rcases step_cases hready hstep with ⟨d, -, rfl, -, -⟩ | rfl | ⟨-, rfl⟩
  · obtain ⟨-, hkept, -⟩ := kindNext_restKept d.instr.kind s
    cases (hkept.trans hnone).symm.trans hfault
  · cases hfault
    rfl
  · cases hfault
    rfl

/-- Settles O48: a call returns the cost of a decoded record, or an error and the state it was given. -/
theorem callCompletesOrFails : Obligations.CallCompletesOrFails := by
  intro s hready
  rcases runOne_cases hready with ⟨d, bs, hrun, -, hdec⟩ | hrun | ⟨-, hrun⟩
  · obtain ⟨-, -, -, -, -, -, hmin, hmax, -⟩ := decodedRecordFields _ bs d hdec
    exact .inl ⟨_, _, _, hrun, hmin, hmax⟩
  · exact .inr ⟨_, hrun⟩
  · exact .inr ⟨_, hrun⟩

/-- Settles O42: the byte alone makes the fetch fail, so the call and the step do. -/
theorem unclassifiedByteAtPcFaults : Obligations.UnclassifiedByteAtPcFaults := by
  intro s op hcan hop hdec
  have ⟨_, hready, _⟩ := hcan
  exact step_of_runOne_error hcan (runOne_of_fetch_failed hready (fetch_of_decode_byte_error hop hdec))

/-! SUPPORT. The host's accesses between calls (60_exceptions.md R141). -/

/-- Settles O56: a register write keeps F[3:0] zero and, but for one to PC, PC; a memory write keeps the canonical
form. -/
theorem hostAccessKeepsInvariant : Obligations.HostAccessKeepsInvariant := by
  intro s act hinv
  have ⟨hflags, hwf, hready⟩ := hinv
  rcases hostAct_cases act s with hsame | ⟨id, v, rfl, hwrite⟩ | ⟨a, bs, rfl, hwrite⟩
  · rw [hsame]
    exact ⟨hinv, ⟨rfl, rfl, rfl, rfl, rfl⟩, fun hpc => absurd rfl hpc⟩
  · rw [hwrite]
    refine ⟨⟨RegFile.flagsWf_write id v hflags, hwf, hready⟩, ⟨rfl, rfl, rfl, rfl, rfl⟩, fun hpc => ⟨v, ?_⟩⟩
    by_cases hid : id = .pc
    · rw [hid]
    · exact absurd (RegFile.pc_write v hid) hpc
  · rw [hwrite]
    exact ⟨⟨hflags, Memory.wf_writeMany hwf a bs, hready⟩, ⟨rfl, rfl, rfl, rfl, rfl⟩, fun hpc => absurd rfl hpc⟩

theorem hostAct_readMem_error {s : State} {a n : Nat} {k : ErrorKind} (hready : s.phase = .ready)
    (h : s.mem.readMany a n = .error k) : hostAct (.readMem a n) s = (.error k, s) := by
  simp only [hostAct, hready, h]

theorem hostAct_writeMem_error {s : State} {a : Nat} {bs : List Byte} {m : Memory} {k : ErrorKind}
    (hready : s.phase = .ready) (h : s.mem.writeMany a bs = (m, some k)) :
    hostAct (.writeMem a bs) s = (.error k, s.setMem m) := by
  simp only [hostAct, hready, h]

/-- Settles O58: the branches of a host access in a ready state; past the top, a single byte's read and write are the
failing branches, with the memory as it was. -/
theorem hostAccessRepliesBetweenCalls : Obligations.HostAccessRepliesBetweenCalls := by
  intro s hready
  refine ⟨fun id => ?_, fun id v => ?_, fun a n bs hread => ?_, fun a n k => hostAct_readMem_error hready,
    fun a bs m hwrite => ?_, fun a bs m k => hostAct_writeMem_error hready, fun a b hpast => ⟨?_, ?_⟩⟩
  · simp only [hostAct, hready]
  · simp only [hostAct, hready, State.writeReg]
  · simp only [hostAct, hready, hread]
  · simp only [hostAct, hready, hwrite, State.setMem]
  · exact hostAct_readMem_error hready (s.mem.readMany_succ_of_ge hpast 0)
  · exact hostAct_writeMem_error hready (s.mem.writeMany_cons_of_ge hpast b [])

end Sys2Proof.Machine

namespace Sys2Proof.Machine

/-! SUPPORT. F[3:0] as a proposition, and what a launch answers (10_state.md R20; 70_reset_and_hazards.md R144-R149). -/

theorem RegFile.flagsWf_iff {rf : RegFile} : rf.flagsWf = true ↔ rf.f &&& 0x0F#8 = 0#8 :=
  beq_iff_eq

theorem RegFile.read_f_low {rf : RegFile} (h : rf.flagsWf = true) : rf.read .f &&& 0x000F#16 = 0#16 := by
  calc rf.read .f &&& 0x000F#16
      = zext16 (rf.f &&& 0x0F#8) := (BitVec.setWidth_and (x := rf.f) (y := 0x0F#8)).symm
    _ = 0#16 := by rw [RegFile.flagsWf_iff.mp h]; rfl

/-- The machine a launch creates from its parameters. -/
def Launch.state (p : Launch) : State :=
  { regs := p.initRegs, mem := p.initMem, phase := .ready, fault := none, result := none,
    loadExt := p.loadExt, endPc := p.endPc }

theorem launch_of_flags_ne_zero {p : Launch} (h : p.initRegs.f &&& 0x0F#8 ≠ 0#8) :
    State.launch p = .refused .launchFlagsNotZero := by
  have hflags : p.initRegs.flagsWf = false := beq_eq_false_iff_ne.mpr h
  simp only [State.launch, hflags, if_true]

/-- A launch answers a machine exactly for F[3:0] = 0 and a canonical memory, and that machine is its parameters'. -/
theorem launch_eq_next_iff {p : Launch} {s : State} :
    State.launch p = .next s ↔ p.initRegs.flagsWf = true ∧ p.initMem.wf = true ∧ s = p.state := by
  cases hflags : p.initRegs.flagsWf with
  | false => simp [State.launch, hflags]
  | true => cases hwf : p.initMem.wf <;> simp [State.launch, Launch.state, hflags, hwf, eq_comm]

/-- Settles O52: F[3:0] not zero is the first refusal; without it and with a canonical memory the launch answers its
parameters' machine. -/
theorem launchTakesItsParameters : Obligations.LaunchTakesItsParameters := by
  intro p
  refine ⟨launch_of_flags_ne_zero, fun hflags hwf => ?_⟩
  exact ⟨p.state, launch_eq_next_iff.mpr ⟨RegFile.flagsWf_iff.mpr hflags, hwf, rfl⟩, rfl, rfl, rfl, rfl, rfl, rfl⟩

/-- Settles O54: each part of the invariant is a field of the reset state. -/
theorem resetMeetsInvariant : Obligations.ResetMeetsInvariant :=
  ⟨⟨rfl, rfl, rfl⟩, rfl, rfl⟩

/-- A launch establishes the invariant; every step and every host access keeps it. -/
theorem inv_of_reachable {s : State} (h : Reachable s) : Inv s := by
  induction h with
  | launch hlaunch =>
    obtain ⟨hflags, hwf, rfl⟩ := launch_eq_next_iff.mp hlaunch
    exact ⟨hflags, hwf, rfl⟩
  | step _ hstep ih => exact stepKeepsInvariant _ _ ih hstep
  | host act _ ih =>
    obtain ⟨hinv, -, -⟩ := hostAccessKeepsInvariant _ act ih
    exact hinv

/-- Settles O57: the invariant of the reachable states says what F holds, and so what F and AF read; a launch that would
break it is refused. -/
theorem fLowNibbleIsZeroWhenReachable : Obligations.FLowNibbleIsZeroWhenReachable := by
  refine ⟨fun s hreach => ?_, fun p hf s hlaunch => ?_⟩
  · have hinv := inv_of_reachable hreach
    have ⟨hflags, _, _⟩ := hinv
    exact ⟨RegFile.flagsWf_iff.mp hflags, RegFile.read_f_low hflags, RegFile.read_af_low hflags, hinv⟩
  · cases (launch_of_flags_ne_zero hf).symm.trans hlaunch

/-! SUPPORT. Bytes the host writes inside the Address Space, and the instruction they are (20_memory.md R43, R44, R59). -/

/-- A multi-byte read of what a multi-byte write stored gives the bytes back. -/
theorem Memory.readMany_writeMany {m : Memory} (hwf : m.wf = true) {a : Nat} {bs : List Byte}
    (h : a + bs.length ≤ Config.memorySize) : (m.writeMany a bs).1.readMany a bs.length = .ok bs := by
  rw [Memory.readMany_of_le _ h]
  congr 1
  refine List.ext_getElem (by simp) fun i _ hi => ?_
  have hread := Memory.read_writeMany hwf a bs (a + i)
  rw [Memory.read_of_lt _ (by omega), if_pos (by omega), Nat.add_sub_cancel_left] at hread
  simpa [hi] using hread

/-- A host write inside the Address Space is done whole. -/
theorem hostAct_writeMem_done {s : State} {a : Nat} {bs : List Byte} (hready : s.phase = .ready)
    (h : a + bs.length ≤ Config.memorySize) :
    hostAct (.writeMem a bs) s = (.done, s.setMem (s.mem.writeMany a bs).1) := by
  have hnone : (s.mem.writeMany a bs).2 = none := by
    rw [Memory.writeMany_error, if_neg (by omega)]
  obtain ⟨-, -, -, -, hdone, -, -⟩ := hostAccessRepliesBetweenCalls s hready
  exact hdone a bs _ (Prod.ext rfl hnone)

/-- The machine after the host has set PC to `p` and written `bs` there. -/
def State.placedAt (s : State) (p : Word) (bs : List Byte) : State :=
  (s.writeReg .pc p).setMem (s.mem.writeMany p.toNat bs).1

theorem hostAct_placedAt {s : State} {p : Word} {bs : List Byte} (hready : s.phase = .ready)
    (h : p.toNat + bs.length ≤ Config.memorySize) :
    hostAct (.writeMem p.toNat bs) (hostAct (.writeReg .pc p) s).2 = (.done, s.placedAt p bs) := by
  obtain ⟨-, hwrite, -⟩ := hostAccessRepliesBetweenCalls s hready
  rw [hwrite .pc p]
  exact hostAct_writeMem_done hready h

/-- Settles O59: the host's accesses leave a machine that can step and whose bytes at PC are the instruction's encoding,
which decodes to it; the step runs it, and it leaves PC to the advance. -/
theorem hostPlacedInstructionRuns : Obligations.HostPlacedInstructionRuns := by
  intro s p i hfault hready hend hwf hwell hfits
  obtain ⟨d, hdec, rfl, hlen⟩ := decodeOfEncode s.loadExt i hwell
  have hcan : canStep (s.placedAt p (encode d.instr)) := ⟨hfault, hready, hend⟩
  obtain ⟨hrun, -, -⟩ := stepRunsDecodedInstruction _ _ d hcan (Memory.readMany_writeMany hwf hfits) hdec
  have hexec := exec_eq_kindNext d.instr (s.placedAt p (encode d.instr))
  have hstep := hrun _ hexec
  obtain ⟨-, -, hpc⟩ := kindNext_f_sp_pc d.instr.kind (s.placedAt p (encode d.instr))
  rw [hlen, hpc] at hstep
  exact ⟨_, _, d.cycles, hostAct_placedAt hready hfits, rfl, ⟨d, hdec, rfl, rfl, hlen⟩, hexec, hstep⟩

end Sys2Proof.Machine

namespace Sys2Proof.Machine

/-! SUPPORT. The sorts of outcome of a single byte, counted over the 256 bytes (30_encoding.md R72). -/

/-- A byte alone is never too long, so its outcome is of exactly one of the three sorts that are counted. -/
theorem decode_byte_sorts (loadExt : Bool) (op : Byte) :
    (if (decode loadExt [op]).isComplete then 1 else 0) + (if (decode loadExt [op]).isNeedMoreBytes then 1 else 0) +
      (if (decode loadExt [op]).isInvalidOpcode then 1 else 0) = 1 := by
  cases hclass : classify loadExt op with
  | none =>
    rw [decode_unclassified hclass]
    rfl
  | some cls =>
    obtain ⟨hpos, -, -⟩ := classify_length hclass
    rw [decode_cons hclass, List.length_nil, if_neg (show ¬cls.length < 1 + 0 by omega)]
    split <;> rfl

/-- The 256 opcode bytes, by high and low half byte. -/
def opcodeBytes : List Byte :=
  (List.range 16).flatMap fun hi => (List.range 16).map fun lo => BitVec.ofNat 8 (16 * hi + lo)

theorem opcodeBytes_length : opcodeBytes.length = 256 :=
  calc opcodeBytes.length
      = ((List.range 16).map fun _ => 16).sum := by
        simp only [opcodeBytes, List.length_flatMap, List.length_map, List.length_range]
    _ = 256 := rfl

theorem opcodeCount_eq_countP (loadExt : Bool) (sort : DecodeOutcome → Bool) :
    opcodeCount loadExt sort = opcodeBytes.countP fun op => sort (decode loadExt [op]) := by
  simp only [opcodeCount, opcodeBytes, List.countP_flatMap, List.countP_map, Function.comp_def]

/-- The three counts over any bytes, each alone, add up to the number of bytes. -/
theorem countP_decode_byte_sorts (loadExt : Bool) (ops : List Byte) :
    ops.countP (fun op => (decode loadExt [op]).isComplete) +
        ops.countP (fun op => (decode loadExt [op]).isNeedMoreBytes) +
        ops.countP (fun op => (decode loadExt [op]).isInvalidOpcode) = ops.length := by
  induction ops with
  | nil => rfl
  | cons op ops ih =>
    have hone := decode_byte_sorts loadExt op
    simp only [List.countP_cons, List.length_cons]
    omega

theorem opcodeCount_sorts (loadExt : Bool) :
    opcodeCount loadExt DecodeOutcome.isComplete + opcodeCount loadExt DecodeOutcome.isNeedMoreBytes +
      opcodeCount loadExt DecodeOutcome.isInvalidOpcode = 256 := by
  rw [opcodeCount_eq_countP, opcodeCount_eq_countP, opcodeCount_eq_countP, countP_decode_byte_sorts]
  exact opcodeBytes_length

/-- Settles O21: the base words are pairs of operands, the others the encodings of their kinds; the refused words have
an unclassified first byte; and the InvalidOpcode counts are what the other two sorts leave of 256. -/
theorem decodeSanityWords : Obligations.DecodeSanityWords := by
  have hcomplete : opcodeCount false DecodeOutcome.isComplete = 63 := rfl
  have hneed : opcodeCount false DecodeOutcome.isNeedMoreBytes = 0 := rfl
  have hcompleteExt : opcodeCount true DecodeOutcome.isComplete = 73 := rfl
  have hneedExt : opcodeCount true DecodeOutcome.isNeedMoreBytes = 12 := rfl
  have hsplit := opcodeCount_sorts false
  have hsplitExt := opcodeCount_sorts true
  exact ⟨decodesTo_of_classify (classify_opByte_load false (.register .b) (.register .c)),
    decodesTo_of_classify (classify_opByte_load false (.register .a) .memoryViaHL),
    decodesTo_of_classify (classify_opByte_load false .memoryViaHL (.register .b)),
    Kind.decodesTo_encode (.loadRegisterFromImmediate .a 0x12#8),
    Kind.decodesTo_encode (.loadMemoryFromImmediate 0xAB#8),
    Kind.decodesTo_encode (.loadAFromAbsolute 0x1234#16),
    Kind.decodesTo_encode (.loadHighImmediateFromA 0x80#8),
    Kind.decodesTo_encode .loadHLIncrementFromA,
    rfl, rfl,
    decode_unclassified ((classify_load_eq_none_iff rfl false).mpr rfl) _,
    decode_unclassified (classify_of_header_ne (by decide) false) _,
    rfl,
    ⟨hcomplete, by omega⟩, hcompleteExt, hneedExt, by omega⟩

end Sys2Proof.Machine
